-- ==== Sys2Proof/Word.lean ====
section
/-! DEFINITION. The value types of the Trivium CORE: a bit, a byte, the key, the IV, the 288-bit cipher state, and
the bundle of input ports one clock cycle samples. Rules R9, R11, R30, R33, R47 and R80 of spec/. -/

namespace Sys2Proof

/-- A bit is 0 or 1 (R9): `false` is 0, `true` is 1. -/
abbrev Bit := Bool

/-- A byte of the host's text (R64). -/
abbrev Byte := BitVec 8

/-- 80 key bits (R7 `KEY_BITS`). -/
abbrev Key := BitVec 80

/-- 80 IV bits (R7 `IV_BITS`). -/
abbrev Iv := BitVec 80

/-- The cipher state `s`, exactly 288 bits (R30, R31, R33). -/
abbrev CipherState := BitVec 288

/-- The value of every input port in one cycle, `in_n` (R13, R47, R80). `clk_i` is not a field: one step of the model
is one cycle of the clock. -/
structure Ports where
  /-- synchronous reset, active high -/
  rst_i : Bit
  /-- the command -/
  cmd_i : BitVec 2
  /-- the key port -/
  key_i : BitVec 80
  /-- the IV port -/
  iv_i : BitVec 80
  /-- the port of a state to write -/
  state_i : BitVec 288
  deriving DecidableEq, Repr

end Sys2Proof
end

