-- ==== Sys2Proof/Machine/Seq.lean ====
section
/-! DEFINITION. Bit sequences (R11). A sequence of n bits is a `BitVec n` whose FIRST element is its MOST significant
bit, the spec's order for every port and every hex string (R63, R65, log entry 4); so `++` is the spec's `++`,
`BitVec.cons` its `::`, and a port's value is the sequence it carries. -/

namespace Sys2Proof.Machine

/-- `x[k]`, element k of a sequence, counted from the first (R11). -/
def bitAt {w : Nat} (x : BitVec w) (k : Nat) : Bit := x.getMsbD k

/-- `x[a .. a+n-1]`, n elements from element a (R11). -/
def slice {w : Nat} (x : BitVec w) (a n : Nat) : BitVec n := x.extractLsb' (w - a - n) n

/-- The sequence of the elements `f 0, f 1, ..., f (n-1)` of a list's first n bits, first bit first; missing elements
are 0. -/
def seqOfBits (n : Nat) (bs : List Bit) : BitVec n :=
  match n with
  | 0 => 0#0
  | n + 1 =>
    match bs with
    | [] => 0#(n + 1)
    | b :: rest => BitVec.cons b (seqOfBits n rest)

/-- The list of a sequence's elements, first bit first. -/
def bitsOfSeq {w : Nat} (x : BitVec w) : List Bit := (List.range w).map (bitAt x)

end Sys2Proof.Machine
end

