-- ==== Sys2Proof/Machine/Operands.lean ====
section
/-! DEFINITION. Operand assembly (R65, R82): the bit sequence a port carries, and the port value that carries a
sequence. -/

namespace Sys2Proof.Machine

/-- `bitseq_W(p)`: element k is bit `W-1-k` of the port (R65). With the first element most significant, that is the
port's value itself; `bitAt_bitseq` in Laws/Seq.lean says so bit by bit. -/
def bitseq {w : Nat} (p : BitVec w) : BitVec w := p

/-- The port value that carries the sequence x: `port[W-1-k] = x[k]` (R65, `state_o`). -/
def portOf {w : Nat} (x : BitVec w) : BitVec w := x

/-- The key sequence K of an INIT: `K[k] = key_i[79-k]` (R82). -/
def keyOperand (key_i : BitVec 80) : Key := bitseq key_i

/-- The IV sequence of an INIT: `IV[k] = iv_i[79-k]` (R82). -/
def ivOperand (iv_i : BitVec 80) : Iv := bitseq iv_i

/-- The state sequence S of a WRSTATE: `S[k] = state_i[287-k]` (R82). -/
def stateOperand (state_i : BitVec 288) : CipherState := bitseq state_i

end Sys2Proof.Machine
end

