-- ==== Sys2Proof/Syntax.lean ====
section
/-! DEFINITION. The commands of the CORE, one constructor per row of spec/opcode_table.json (R81, R86). An operand is the
value of the port the command reads (R82, R83). -/

namespace Sys2Proof

/-- A command with the operand ports it names (R86, R88). -/
inductive Instr where
  /-- `NOP`: `rst_i = 0`, `cmd_i = 00` (R160). -/
  | nop
  /-- `INIT <key>, <iv>`: `rst_i = 0`, `cmd_i = 01` (R122). -/
  | init (key : BitVec 80) (iv : BitVec 80)
  /-- `STEP`: `rst_i = 0`, `cmd_i = 10` (R140). -/
  | step
  /-- `WRSTATE <state>`: `rst_i = 0`, `cmd_i = 11` (R161). -/
  | wrstate (state : BitVec 288)
  /-- `RST`: `rst_i = 1`, `cmd_i` any (R162). The bits of `cmd_i` are not kept: RST ignores them. -/
  | rst
  deriving DecidableEq, Repr

end Sys2Proof
end

