-- ==== Sys2Proof/WellFormed.lean ====
section
/-! DEFINITION. Which command words and which instructions are well formed (R80, R84). -/

namespace Sys2Proof

/-- A command word `CW` has 3 bits (R80); a number with a higher bit set is no command word. -/
def isCommandWord (w : Nat) : Bool := w < 8

/-- Every instruction is well formed: the operand widths are in the types, there are no immediates and no register
specifiers (R82), and no encoding is reserved or illegal (R84). One arm per constructor, so that a check a later
constructor needs cannot be forgotten. -/
def Instr.wf : Instr → Bool
  | .nop => true
  | .init _ _ => true
  | .step => true
  | .wrstate _ => true
  | .rst => true

end Sys2Proof
end

