-- ==== Sys2Proof/Decode.lean ====
section
/-! DEFINITION. The decoder, from the input ports of one cycle to a command (R80, R81, R82, R84, R85), and the encoder,
from a command to the ports its trace line drives (R86, R88). -/

namespace Sys2Proof

/-- The command word `CW = (rst_i, cmd_i[1:0])`, `rst_i` the most significant bit (R80). -/
def Ports.cw (p : Ports) : BitVec 3 := BitVec.cons p.rst_i p.cmd_i

/-- The ports that carry the command word `cw` and the given operands (R80). -/
def portsOf (cw : BitVec 3) (key iv : BitVec 80) (state : BitVec 288) : Ports :=
  { rst_i := cw.getLsbD 2, cmd_i := cw.extractLsb' 0 2, key_i := key, iv_i := iv, state_i := state }

/-- Decoding (R81): `rst_i` overrides `cmd_i`, and `cmd_i` selects one of four commands. Total: all 8 command words are
defined (R84). Only the operand ports the command uses are read (R83). -/
def decode (p : Ports) : Instr :=
  if p.rst_i then .rst
  else if p.cmd_i = 0b00#2 then .nop
  else if p.cmd_i = 0b01#2 then .init p.key_i p.iv_i
  else if p.cmd_i = 0b10#2 then .step
  else .wrstate p.state_i

/-- Why a number is not decoded. -/
inductive DecodeReject where
  /-- Raised by `commandWord` for a number with a bit above the 3 bits of `CW`. Safe: no such word can be on the port. -/
  | notACommandWord (w : Nat)
  deriving DecidableEq, Repr

/-- The command word a number stands for, or the named rejection of a number of more than 3 bits (R80). -/
def commandWord (w : Nat) : Except DecodeReject (BitVec 3) :=
  if isCommandWord w then .ok (BitVec.ofNat 3 w) else .error (.notACommandWord w)

/-- The ports that carry the low three bits of `w` as the command word and zeros on every operand port. -/
def portsOfWord (w : Nat) : Ports := portsOf (BitVec.ofNat 3 w) 0#80 0#80 0#288

/-- The instruction the decoder reads from the command word `w`, bit 0 being `cmd_i[0]` and bit 2 `rst_i`, with every
operand port 0; `none` where a bit above the command word is set. The table gives a row 3 bits whatever `nbits` rounds
them up to. -/
def decodeTableWord (_nbits w : Nat) : Option Instr :=
  match commandWord w with
  | .ok cw => some (decode (portsOf cw 0#80 0#80 0#288))
  | .error _ => none

/-- The ports a command's trace line drives (R86, R88). A port the line does not name is don't care (R86); the encoder
drives it 0, and RST's `cmd_i` `00` (log entry 5). -/
def encode : Instr → Ports
  | .nop => portsOf 0b000#3 0#80 0#80 0#288
  | .init key iv => portsOf 0b001#3 key iv 0#288
  | .step => portsOf 0b010#3 0#80 0#80 0#288
  | .wrstate state => portsOf 0b011#3 0#80 0#80 state
  | .rst => portsOf 0b100#3 0#80 0#80 0#288

end Sys2Proof
end

