-- ==== Sys2Proof/Config.lean ====
section
/-! DEFINITION. What is fixed for the machine: the compile-time constants of rule R7 (R6: none is configurable), and the
free values: what the spec lets the outside world or power-up choose. A free value is an opaque constant, so nothing
can be proved of it and every statement holds for each of its values. -/

namespace Sys2Proof.Config

/-- `WARMUP_ROUNDS` (R7). -/
def warmupRounds : Nat := 1152

/-- The value of `cnt` in the last cycle of a warm-up, `WARMUP_ROUNDS - 1` (R39, R123). -/
def lastWarmup : BitVec 11 := 1151#11

/-- FREE VALUE (log entry 2): the value of `rst_i` in a cycle for which no trace line is listed. -/
opaque freeRst : Nat → Bit

/-- FREE VALUE (log entry 2): the value of `cmd_i` in a cycle for which no trace line is listed. -/
opaque freeCmd : Nat → BitVec 2

/-- FREE VALUE (log entry 2): the value of `key_i` in a cycle for which no trace line is listed. -/
opaque freeKey : Nat → BitVec 80

/-- FREE VALUE (log entry 2): the value of `iv_i` in a cycle for which no trace line is listed. -/
opaque freeIv : Nat → BitVec 80

/-- FREE VALUE (log entry 2): the value of `state_i` in a cycle for which no trace line is listed. -/
opaque freeState : Nat → BitVec 288

/-- FREE VALUE (R46, log entry 3): `s` before the first reset after power-up. -/
opaque powerUpS : BitVec 288

/-- FREE VALUE (R46, log entry 3): the two flip-flops of `phase` before the first reset, all four encodings possible
(R38). -/
opaque powerUpPhase : BitVec 2

/-- FREE VALUE (R46, log entry 3): `cnt` before the first reset. -/
opaque powerUpCnt : BitVec 11

/-- FREE VALUE (R46, log entry 3): `ks_bit` before the first reset. -/
opaque powerUpKsBit : Bit

/-- FREE VALUE (R46, log entry 3): `ks_valid` before the first reset. -/
opaque powerUpKsValid : Bit

/-- FREE VALUE (R46, log entry 3): `rej` before the first reset. -/
opaque powerUpRej : Bit

/-- FREE VALUE (R46, log entry 3): `rej_cause` before the first reset. -/
opaque powerUpRejCause : BitVec 2

end Sys2Proof.Config
end

