-- ==== Sys2Proof/Machine/State.lean ====
section
/-! DEFINITION. The state of the CORE: the seven registers of rule R30 and nothing else (`Regs`), beside the model's own
record of what the host drives on the input ports (log entries 1 and 2). No memory: R60. -/

namespace Sys2Proof.Machine

/-- The sequencer phase, exactly three values (R37, R38). Its 2-bit encoding is `phaseCode` in Flags.lean. -/
inductive Phase where
  /-- no initialized state since reset; STEP is rejected -/
  | idle
  /-- the warm-up sequencer is running; every command but NOP is rejected -/
  | warmup
  /-- `s` holds an initialized or host-written state; STEP is accepted -/
  | ready
  deriving DecidableEq, Repr

/-- The architectural registers of the CORE, `σ` (R13, R30). -/
structure Regs where
  /-- the cipher state, first bit `s[0]` most significant (R31, log entry 4) -/
  s : CipherState
  /-- the sequencer phase (R38) -/
  phase : Phase
  /-- warm-up updates completed in the current warm-up (R39) -/
  cnt : BitVec 11
  /-- the last keystream bit produced (R40) -/
  ks_bit : Bit
  /-- a keystream bit was produced in the previous cycle (R41) -/
  ks_valid : Bit
  /-- a command was rejected in the previous cycle (R42) -/
  rej : Bit
  /-- why it was rejected (R42) -/
  rej_cause : BitVec 2
  deriving DecidableEq, Repr

/-- `ResetState`, the reset values of rule R45. -/
def Regs.reset : Regs :=
  { s := 0#288, phase := .idle, cnt := 0#11, ks_bit := false, ks_valid := false, rej := false, rej_cause := 0b00#2 }

/-- The machine: the registers, and the inputs still to come. `inputs` and `cycle` are the MODEL's own, not registers of
the CORE: the spec presents one command per cycle from outside (R36, R80). -/
structure State where
  /-- the registers `σ_n` -/
  regs : Regs
  /-- the port values the host drives in this cycle and the next ones, this cycle's first (R86: one line per cycle) -/
  inputs : List Ports
  /-- how many cycles have passed: it picks the free values of an unlisted cycle (log entry 2) -/
  cycle : Nat
  deriving DecidableEq, Repr

/-- The machine right after reset (R45, R250), with no input listed (log entry 1). -/
def State.reset : State := { regs := Regs.reset, inputs := [], cycle := 0 }

/-- Why a step ends in a fault: never. The CORE has no fault (R224), no trap (R230), and the one fatal condition of the
source, a state that is not 288 bits long, cannot be represented (R33, R225), so this type has no constructor. -/
inductive Fault where
  deriving DecidableEq, Repr

/-- Why a step is refused. A command the phase does not allow is NOT refused in this sense: the CORE reports it and goes
on, and the model's step answers the next state (R220). -/
inductive Refusal where
  /-- Raised only by an arm of `exec` whose instruction has no meaning yet; no arm does. Safe. -/
  | notModelled (mnemonic : String)
  deriving DecidableEq, Repr

end Sys2Proof.Machine
end

