-- ==== Sys2Proof/Machine/Flags.lean ====
section
/-! DEFINITION. The status registers and flags: the defaults of every cycle (R163), the status outputs (R43), the cause
codes (R221, R222, R224) and the encoding of `phase` (R37, R38). -/

namespace Sys2Proof.Machine

/-- Cause code `00`: no rejection (R223). -/
def causeNone : BitVec 2 := 0b00#2

/-- Cause code `01`, BUSY: a command other than NOP in WARMUP (R221). -/
def causeBusy : BitVec 2 := 0b01#2

/-- Cause code `10`, NOT_READY: a STEP in IDLE (R222). -/
def causeNotReady : BitVec 2 := 0b10#2

/-- The defaults of every cycle: `ks_valid <- 0`, `rej <- 0`, `rej_cause <- 00` (R163). -/
def Regs.defaults (σ : Regs) : Regs := { σ with ks_valid := false, rej := false, rej_cause := causeNone }

/-- `busy_o = (phase = WARMUP)` (R43). -/
def Regs.busy (σ : Regs) : Bit := σ.phase = .warmup

/-- `ready_o = (phase = READY)` (R43). -/
def Regs.ready (σ : Regs) : Bit := σ.phase = .ready

/-- The 2-bit encoding of a phase (R37). -/
def phaseCode : Phase → BitVec 2
  | .idle => 0b00#2
  | .warmup => 0b01#2
  | .ready => 0b10#2

/-- The phase the register's two bits stand for; `11` is decoded as IDLE (R38). -/
def phaseOfCode (c : BitVec 2) : Phase :=
  if c = 0b01#2 then .warmup else if c = 0b10#2 then .ready else .idle

end Sys2Proof.Machine
end

