-- ==== Sys2Proof/Machine/Ops.lean ====
section
/-! DEFINITION. The named operations on the state: the inputs of a cycle, the passing of a cycle, the reject report
(R220), which is all the CORE has in the place of an exception (R230), and the power-up registers (R46). The CORE has
no memory (R60) and returns from nothing (R230). -/

namespace Sys2Proof.Machine

/-- Port values nothing constrains, for a cycle no trace line is listed for (log entry 2). -/
def freePorts (cycle : Nat) : Ports :=
  { rst_i := Config.freeRst cycle, cmd_i := Config.freeCmd cycle, key_i := Config.freeKey cycle,
    iv_i := Config.freeIv cycle, state_i := Config.freeState cycle }

/-- `in_n`: the ports sampled at the edge that ends this cycle (R49). -/
def State.ports (s : State) : Ports :=
  match s.inputs with
  | p :: _ => p
  | [] => freePorts s.cycle

/-- The command of this cycle (R80, R81). -/
def State.command (s : State) : Instr := decode s.ports

/-- The passing of one cycle on the side of the inputs: the next port values stand first. -/
def State.advance (s : State) : State := { s with inputs := s.inputs.tail, cycle := s.cycle + 1 }

/-- The ports of this cycle replaced by p; the cycles after it keep theirs. -/
def State.drive (s : State) (p : Ports) : State := { s with inputs := p :: s.inputs.tail }

/-- The state with its registers replaced, `σ_{n+1}` for `σ_n` (R13, R69: all at one edge). -/
def State.withRegs (s : State) (σ : Regs) : State := { s with regs := σ }

/-- `RejectArm(σ', cause)` (R220): the report and nothing else. -/
def Regs.reject (σ' : Regs) (cause : BitVec 2) : Regs := { σ' with rej := true, rej_cause := cause }

/-- The registers before the first reset after power-up: every one a free value (R46, R252). -/
def Regs.powerUp : Regs :=
  { s := Config.powerUpS, phase := phaseOfCode Config.powerUpPhase, cnt := Config.powerUpCnt,
    ks_bit := Config.powerUpKsBit, ks_valid := Config.powerUpKsValid, rej := Config.powerUpRej,
    rej_cause := Config.powerUpRejCause }

/-- The machine at power-up, before the first reset, with the host's trace to come (R46, R252). -/
def State.powerUp (inputs : List Ports) : State := { regs := Regs.powerUp, inputs := inputs, cycle := 0 }

end Sys2Proof.Machine
end

