-- ==== Sys2Proof/Machine/Updater.lean ====
section
/-! DEFINITION. The state updater `Upd` (40_updater.md). Every tap is read from the one state before the update (R106). -/

namespace Sys2Proof.Machine

/-- Register A, `s[0..92]` (R32). -/
def regA (s : CipherState) : BitVec 93 := slice s 0 93

/-- Register B, `s[93..176]` (R32). -/
def regB (s : CipherState) : BitVec 84 := slice s 93 84

/-- Register C, `s[177..287]` (R32). -/
def regC (s : CipherState) : BitVec 111 := slice s 177 111

/-- `t1`, linear taps of A (R102). -/
def t1 (s : CipherState) : Bit := bitAt s 65 ^^ bitAt s 92

/-- `t2`, linear taps of B (R102). -/
def t2 (s : CipherState) : Bit := bitAt s 161 ^^ bitAt s 176

/-- `t3`, linear taps of C (R102). -/
def t3 (s : CipherState) : Bit := bitAt s 242 ^^ bitAt s 287

/-- `z`, the keystream bit, before the nonlinear terms (R103). -/
def keystreamBit (s : CipherState) : Bit := t1 s ^^ t2 s ^^ t3 s

/-- `t1'`, the feedback bit that enters B (R104). -/
def feedback1 (s : CipherState) : Bit := t1 s ^^ (bitAt s 90 && bitAt s 91) ^^ bitAt s 170

/-- `t2'`, the feedback bit that enters C (R104). -/
def feedback2 (s : CipherState) : Bit := t2 s ^^ (bitAt s 174 && bitAt s 175) ^^ bitAt s 263

/-- `t3'`, the feedback bit that enters A (R104). -/
def feedback3 (s : CipherState) : Bit := t3 s ^^ (bitAt s 285 && bitAt s 286) ^^ bitAt s 68

/-- The next state in register form (R107): each register drops its last bit and takes its feedback bit in front. -/
def nextState (s : CipherState) : CipherState :=
  BitVec.cons (feedback3 s) (slice (regA s) 0 92) ++
    (BitVec.cons (feedback1 s) (slice (regB s) 0 83) : BitVec 84) ++
    (BitVec.cons (feedback2 s) (slice (regC s) 0 110) : BitVec 111)

/-- `Upd(s)`, the pair of the next state and the keystream bit (R100). -/
def upd (s : CipherState) : CipherState × Bit := (nextState s, keystreamBit s)

/-- `Upd^j(s)`, j updates of the state part (R14). -/
def updIter : Nat → CipherState → CipherState
  | 0, s => s
  | j + 1, s => updIter j (upd s).1

/-- The inverse of the update, from the recovery equations of R109: a state whose shifted bits come back one position and
whose three dropped bits come back through the feedback. -/
def updInverse (n : CipherState) : CipherState :=
  let a : BitVec 92 := slice n 1 92
  let b : BitVec 83 := slice n 94 83
  let c : BitVec 110 := slice n 178 110
  (a ++ BitVec.ofBool (bitAt n 93 ^^ bitAt a 65 ^^ (bitAt a 90 && bitAt a 91) ^^ bitAt b 77) : BitVec 93) ++
    (b ++ BitVec.ofBool (bitAt n 177 ^^ bitAt b 68 ^^ (bitAt b 81 && bitAt b 82) ^^ bitAt c 86) : BitVec 84) ++
    (c ++ BitVec.ofBool (bitAt n 0 ^^ bitAt c 65 ^^ (bitAt c 108 && bitAt c 109) ^^ bitAt a 68) : BitVec 111)

end Sys2Proof.Machine
end

