-- ==== Sys2Proof/Machine/Initializer.lean ====
section
/-! DEFINITION. The key/IV loader, the warm-up sequencer and INIT (41_initializer.md). -/

namespace Sys2Proof.Machine

/-- `Load(K, IV)` (R120) in register form: `A = K ++ 0^13`, `B = IV ++ 0^4`, `C = 0^108 ++ 1^3`. -/
def load (key : Key) (iv : Iv) : CipherState :=
  (key ++ 0#13 : BitVec 93) ++ (iv ++ 0#4 : BitVec 84) ++ (0#108 ++ 0b111#3 : BitVec 111)

/-- `Init(K, IV) = Upd^1152(Load(K, IV))`, the source's `initializeTrivium` (R127). -/
def initialized (key : Key) (iv : Iv) : CipherState := updIter Config.warmupRounds (load key iv)

/-- `WarmupArm(σ, σ')` (R123): one update, its keystream bit discarded, counted; the last one ends the warm-up. -/
def warmupArm (σ σ' : Regs) : Regs :=
  if σ.cnt = Config.lastWarmup then { σ' with s := (upd σ.s).1, phase := .ready, cnt := 0#11 }
  else { σ' with s := (upd σ.s).1, cnt := σ.cnt + 1#11 }

/-- A cycle of the warm-up under NOP: the defaults and the warm-up arm (R163). -/
def warmupCycle (σ : Regs) : Regs := warmupArm σ σ.defaults

/-- A cycle of the warm-up under a command other than NOP: the update happens and the command is rejected with BUSY
(R163, R221). -/
def busyCycle (σ : Regs) : Regs := (warmupCycle σ).reject causeBusy

/-- `InitArm(σ', key_i, iv_i)` (R122). -/
def initArm (σ' : Regs) (key_i iv_i : BitVec 80) : Regs :=
  { σ' with s := load (keyOperand key_i) (ivOperand iv_i), phase := .warmup, cnt := 0#11, ks_bit := false }

/-- INIT (R122): accepted in IDLE and READY, rejected with BUSY in WARMUP. -/
def execInit (key iv : BitVec 80) (s : State) : Host.Outcome State Fault Refusal :=
  .next (s.withRegs (if s.regs.phase = .warmup then busyCycle s.regs else initArm s.regs.defaults key iv))

end Sys2Proof.Machine
end

