-- ==== Sys2Proof/Machine/Control.lean ====
section
/-! DEFINITION. NOP, WRSTATE and RST (43_control.md). -/

namespace Sys2Proof.Machine

/-- NOP (R160): only the defaults; in WARMUP the warm-up update still happens. -/
def execNop (s : State) : Host.Outcome State Fault Refusal :=
  .next (s.withRegs (if s.regs.phase = .warmup then warmupCycle s.regs else s.regs.defaults))

/-- `WrstateArm(σ', state_i)` (R161). -/
def wrstateArm (σ' : Regs) (state_i : BitVec 288) : Regs :=
  { σ' with s := stateOperand state_i, phase := .ready, cnt := 0#11, ks_bit := false }

/-- WRSTATE (R161): accepted in IDLE and READY, rejected with BUSY in WARMUP. -/
def execWrstate (state : BitVec 288) (s : State) : Host.Outcome State Fault Refusal :=
  .next (s.withRegs (if s.regs.phase = .warmup then busyCycle s.regs else wrstateArm s.regs.defaults state))

/-- RST (R162, R250): every register takes its reset value, in every phase. -/
def execRst (s : State) : Host.Outcome State Fault Refusal := .next (s.withRegs Regs.reset)

end Sys2Proof.Machine
end

