-- ==== Sys2Proof/Machine/Keystream.lean ====
section
/-! DEFINITION. The keystream bit generator: STEP (R140, R141) and the keystream as a function of the session's first state
(R142). -/

namespace Sys2Proof.Machine

/-- `StepArm(σ, σ')` (R140). -/
def stepArm (σ σ' : Regs) : Regs := { σ' with s := (upd σ.s).1, ks_bit := (upd σ.s).2, ks_valid := true }

/-- STEP (R140, R141): accepted in READY; rejected with NOT_READY in IDLE and with BUSY in WARMUP. -/
def execStep (s : State) : Host.Outcome State Fault Refusal :=
  .next (s.withRegs (match s.regs.phase with
    | .ready => stepArm s.regs s.regs.defaults
    | .warmup => busyCycle s.regs
    | .idle => s.regs.defaults.reject causeNotReady))

/-- The first n keystream bits from the state `S_0` of a session: `z_i = Upd(Upd^{i-1}(S_0)).z`, i = 1 .. n (R142). -/
def keystream : Nat → CipherState → List Bit
  | 0, _ => []
  | n + 1, s0 => (upd s0).2 :: keystream n (upd s0).1

end Sys2Proof.Machine
end

