-- ==== Sys2Proof/Machine/Dispatch.lean ====
section
/-! DEFINITION. One arm per command: its meaning. -/

namespace Sys2Proof.Machine

/-- The effect of the command `i` on the registers, in the cycle that presents it (R163). -/
def exec (i : Instr) (s : State) : Host.Outcome State Fault Refusal :=
  match i with
  | .nop => Sys2Proof.Machine.execNop s
  | .init key iv => Sys2Proof.Machine.execInit key iv s
  | .step => Sys2Proof.Machine.execStep s
  | .wrstate state => Sys2Proof.Machine.execWrstate state s
  | .rst => Sys2Proof.Machine.execRst s

end Sys2Proof.Machine
end

