-- ==== Sys2Proof/Machine/Step.lean ====
section
/-! DEFINITION. One step is one clock cycle: the command on the ports is decoded and run, and the next cycle's port values
come first. -/

namespace Sys2Proof.Machine

/-- One cycle: the registers take `Next(σ_n, in_n)` (R13, R163). -/
def step (s : State) : Host.Outcome State Fault Refusal := exec s.command s.advance

/-- `s` with the command word `w` on the ports of the next cycle to run, every operand port 0: it replaces that cycle's
port values and changes nothing else (log entry 1). -/
def State.withFetchWord (s : State) (_nbits w : Nat) : State := s.drive (portsOfWord w)

end Sys2Proof.Machine
end

