-- ==== Sys2Proof/Machine/Cycle.lean ====
section
/-! DEFINITION. `Next(σ, in)`, the whole behaviour of the CORE in one cycle as rule R163 writes it, in one function of the
registers and the ports. That every step of the machine is one `next` is a statement of its own. -/

namespace Sys2Proof.Machine

/-- `Next(σ, in)` (R163). -/
def next (σ : Regs) (p : Ports) : Regs :=
  if p.rst_i then Regs.reset
  else
    let σ' := σ.defaults
    if σ.phase = .warmup then
      let w := warmupArm σ σ'
      if p.cmd_i = 0b00#2 then w else w.reject causeBusy
    else if p.cmd_i = 0b00#2 then σ'
    else if p.cmd_i = 0b01#2 then initArm σ' p.key_i p.iv_i
    else if p.cmd_i = 0b10#2 then
      if σ.phase = .ready then stepArm σ σ' else σ'.reject causeNotReady
    else wrstateArm σ' p.state_i

/-- The registers after the cycles with the ports `ins`, one after the other (R13). -/
def nextAll (σ : Regs) (ins : List Ports) : Regs := ins.foldl next σ

/-- Several CORE instances side by side for one cycle: each takes its own registers and its own ports, and they share
only the clock (R234). -/
def instancesNext (σs : List Regs) (ins : List Ports) : List Regs := List.zipWith next σs ins

end Sys2Proof.Machine
end

