-- ==== Sys2Proof/Machine/Outputs.lean ====
section
/-! DEFINITION. The output ports (R47), functions of the registers of the cycle only (R48). -/

namespace Sys2Proof.Machine

/-- The value of every output port in one cycle (R47). -/
structure OutPorts where
  /-- the current state -/
  state_o : BitVec 288
  /-- the last keystream bit -/
  ks_bit_o : Bit
  /-- a keystream bit was produced in the previous cycle -/
  ks_valid_o : Bit
  /-- phase WARMUP -/
  busy_o : Bit
  /-- phase READY -/
  ready_o : Bit
  /-- a command was rejected in the previous cycle -/
  rej_o : Bit
  /-- why -/
  rej_cause_o : BitVec 2
  deriving DecidableEq, Repr

/-- The outputs during a cycle (R43, R48). -/
def outputs (σ : Regs) : OutPorts :=
  { state_o := portOf σ.s, ks_bit_o := σ.ks_bit, ks_valid_o := σ.ks_valid, busy_o := σ.busy, ready_o := σ.ready,
    rej_o := σ.rej, rej_cause_o := σ.rej_cause }

end Sys2Proof.Machine
end

