-- ==== Sys2Proof/Machine/Hex.lean ====
section
/-! DEFINITION. The host's format conversions (R63, R64, R191, R192, R195): hex text, bytes and bit sequences, the most
significant bit first. Text is a list of characters. -/

namespace Sys2Proof.Machine

/-- The value of a hex digit, upper or lower case alike; none for another character (R191). -/
def hexValue (c : Char) : Option (BitVec 4) :=
  let n := c.toNat
  if 48 ≤ n ∧ n ≤ 57 then some (BitVec.ofNat 4 (n - 48))
  else if 65 ≤ n ∧ n ≤ 70 then some (BitVec.ofNat 4 (n - 55))
  else if 97 ≤ n ∧ n ≤ 102 then some (BitVec.ofNat 4 (n - 87))
  else none

/-- The digit of a value, lower case (R192). -/
def hexDigit (v : BitVec 4) : Char :=
  if v.toNat < 10 then Char.ofNat (48 + v.toNat) else Char.ofNat (87 + v.toNat)

/-- `hexToBinary(H)`: four bits a digit, most significant first (R63, R191); none where a character is no hex digit. -/
def hexToBinary : List Char → Option (List Bit)
  | [] => some []
  | c :: rest =>
    match hexValue c, hexToBinary rest with
    | some v, some bs => some (bitsOfSeq v ++ bs)
    | _, _ => none

/-- `binaryToHex(b)`: four bits a lower-case digit, a short last group filled with zeros at its low end (R63, R192). -/
def binaryToHex : List Bit → List Char
  | a :: b :: c :: d :: rest => hexDigit (seqOfBits 4 [a, b, c, d]) :: binaryToHex rest
  | [] => []
  | short => [hexDigit (seqOfBits 4 short)]

/-- The bits of bytes, most significant first per byte (R64). -/
def bitsOfBytes : List Byte → List Bit
  | [] => []
  | p :: rest => bitsOfSeq p ++ bitsOfBytes rest

/-- The bytes of bits, most significant first per byte (R64). Its callers give it a multiple of 8 bits (R197); a short
rest gives no byte. -/
def bytesOfBits : List Bit → List Byte
  | b0 :: b1 :: b2 :: b3 :: b4 :: b5 :: b6 :: b7 :: rest =>
    seqOfBits 8 [b0, b1, b2, b3, b4, b5, b6, b7] :: bytesOfBits rest
  | _ => []

/-- The UTF-8 bytes of one character (R195). -/
def utf8Char (c : Char) : List Byte :=
  let n := c.toNat
  if n < 0x80 then [BitVec.ofNat 8 n]
  else if n < 0x800 then [BitVec.ofNat 8 (0xC0 + n / 0x40), BitVec.ofNat 8 (0x80 + n % 0x40)]
  else if n < 0x10000 then
    [BitVec.ofNat 8 (0xE0 + n / 0x1000), BitVec.ofNat 8 (0x80 + n / 0x40 % 0x40), BitVec.ofNat 8 (0x80 + n % 0x40)]
  else
    [BitVec.ofNat 8 (0xF0 + n / 0x40000), BitVec.ofNat 8 (0x80 + n / 0x1000 % 0x40),
      BitVec.ofNat 8 (0x80 + n / 0x40 % 0x40), BitVec.ofNat 8 (0x80 + n % 0x40)]

/-- A text argument as bytes (R195). -/
def utf8Bytes (text : List Char) : List Byte := text.flatMap utf8Char

end Sys2Proof.Machine
end

