-- ==== Sys2Proof/Machine/Trace.lean ====
section
/-! DEFINITION. The trace syntax (R86, R87): trace lines as text, the pseudo-instructions, and the commands they stand for.
Text is a list of characters. What the spec leaves open of the lexical form is log entry 6. -/

namespace Sys2Proof.Machine

/-- What a trace line says after its label: a command, or a pseudo-instruction (R86, R87). -/
inductive TraceBody where
  /-- one of the five commands -/
  | command (i : Instr)
  /-- `WAIT n`: n lines of NOP -/
  | wait (n : Nat)
  /-- `GEN n`: n lines of STEP -/
  | gen (n : Nat)
  /-- `INITW <key>, <iv>`: INIT, then WAIT 1152 -/
  | initw (key : BitVec 80) (iv : BitVec 80)
  deriving DecidableEq, Repr

/-- A trace line, `[label:] MNEMONIC [operands] [; comment]` without its comment (R86). -/
structure TraceLine where
  /-- the label, if there is one -/
  label : Option (List Char)
  /-- the mnemonic and its operands -/
  body : TraceBody
  deriving DecidableEq, Repr

/-- Why a text is no trace line. -/
inductive TraceError where
  /-- no mnemonic: an empty line, a comment alone, a label alone -/
  | noMnemonic
  /-- no mnemonic of R86 and R87 with this number of operands -/
  | unknownForm
  /-- a key, IV or state that is not exactly 20 or 72 hex digits -/
  | badHexOperand
  /-- a count that is no decimal number -/
  | badCount
  deriving DecidableEq, Repr

/-- The commands a line stands for, one a cycle (R87). -/
def TraceBody.expand : TraceBody → List Instr
  | .command i => [i]
  | .wait n => List.replicate n .nop
  | .gen n => List.replicate n .step
  | .initw key iv => .init key iv :: List.replicate 1152 .nop

/-- The commands of a trace in the order of its cycles (R86). -/
def expandAll (lines : List TraceBody) : List Instr := lines.flatMap TraceBody.expand

/-- A finished token, if it has a character. -/
def flushToken (cur : List Char) : List (List Char) := if cur = [] then [] else [cur]

/-- The tokens of a line: words, and `,` and `:` each alone; `;` ends the line. `cur` is the word read so far. -/
def tokens (cur : List Char) : List Char → List (List Char)
  | [] => flushToken cur
  | c :: rest =>
    if c = ';' then flushToken cur
    else if c = ' ' ∨ c = '\t' then flushToken cur ++ tokens [] rest
    else if c = ',' ∨ c = ':' then flushToken cur ++ [c] :: tokens [] rest
    else tokens (cur ++ [c]) rest

/-- A hex operand of a port of w bits: exactly w/4 digits, either case (R86). -/
def hexOperand (w : Nat) (text : List Char) : Except TraceError (BitVec w) :=
  match hexToBinary text with
  | some bs => if text.length = w / 4 then .ok (seqOfBits w bs) else .error .badHexOperand
  | none => .error .badHexOperand

/-- The value of decimal digits after those read so far. -/
def decimalFrom (acc : Nat) : List Char → Option Nat
  | [] => some acc
  | c :: rest =>
    if 48 ≤ c.toNat ∧ c.toNat ≤ 57 then decimalFrom (10 * acc + (c.toNat - 48)) rest else none

/-- The count of a `WAIT` or `GEN` (R87, n ≥ 0). -/
def countOperand (text : List Char) : Except TraceError Nat :=
  match decimalFrom 0 text with
  | some n => .ok n
  | none => .error .badCount

/-- Two hex operands of 80 bits, the key and the IV. -/
def keyIvOperands (key iv : List Char) : Except TraceError (BitVec 80 × BitVec 80) :=
  match hexOperand 80 key, hexOperand 80 iv with
  | .ok k, .ok v => .ok (k, v)
  | _, _ => .error .badHexOperand

/-- The mnemonic and operands of a line (R86, R87). -/
def parseBody : List (List Char) → Except TraceError TraceBody
  | [] => .error .noMnemonic
  | [m] =>
    if m = ['R', 'S', 'T'] then .ok (.command .rst)
    else if m = ['N', 'O', 'P'] then .ok (.command .nop)
    else if m = ['S', 'T', 'E', 'P'] then .ok (.command .step)
    else .error .unknownForm
  | [m, a] =>
    if m = ['W', 'R', 'S', 'T', 'A', 'T', 'E'] then (hexOperand 288 a).map fun st => .command (.wrstate st)
    else if m = ['W', 'A', 'I', 'T'] then (countOperand a).map .wait
    else if m = ['G', 'E', 'N'] then (countOperand a).map .gen
    else .error .unknownForm
  | [m, a, sep, b] =>
    if sep ≠ [','] then .error .unknownForm
    else if m = ['I', 'N', 'I', 'T'] then (keyIvOperands a b).map fun kv => .command (.init kv.1 kv.2)
    else if m = ['I', 'N', 'I', 'T', 'W'] then (keyIvOperands a b).map fun kv => .initw kv.1 kv.2
    else .error .unknownForm
  | _ => .error .unknownForm

/-- A trace line from its text (R86). What may be a label is the model's choice (DESIGN CHOICE, log entry 6): any one
token before `:`, a lone `,` or `:` included. -/
def parseLine (text : List Char) : Except TraceError TraceLine :=
  match tokens [] text with
  | w :: colon :: rest =>
    if colon = [':'] then (parseBody rest).map fun b => { label := some w, body := b }
    else (parseBody (w :: colon :: rest)).map fun b => { label := none, body := b }
  | ts => (parseBody ts).map fun b => { label := none, body := b }

/-- The commands of a trace text, or the first line's error (R86, R87). -/
def assemble : List (List Char) → Except TraceError (List Instr)
  | [] => .ok []
  | l :: rest =>
    match parseLine l, assemble rest with
    | .ok t, .ok is => .ok (t.body.expand ++ is)
    | .error e, _ => .error e
    | .ok _, .error e => .error e

/-- The hex text of a port value, lower case (R15, R65). -/
def hexText {w : Nat} (p : BitVec w) : List Char := binaryToHex (bitsOfSeq (bitseq p))

/-- The trace line of a command (R86). -/
def printInstr : Instr → List Char
  | .nop => ['N', 'O', 'P']
  | .init key iv => ['I', 'N', 'I', 'T', ' '] ++ hexText key ++ [',', ' '] ++ hexText iv
  | .step => ['S', 'T', 'E', 'P']
  | .wrstate state => ['W', 'R', 'S', 'T', 'A', 'T', 'E', ' '] ++ hexText state
  | .rst => ['R', 'S', 'T']

end Sys2Proof.Machine
end

