-- ==== Sys2Proof/Machine/HostLayer.lean ====
section
/-! DEFINITION. The host contract (44_host_layer.md): the key and IV parse, and encryption and decryption by commands that
drive the CORE. Nothing here is hardware of the CORE (R190). -/

namespace Sys2Proof.Machine

/-- The errors of the host's text handling (R193, R197, R226). -/
inductive HostError where
  /-- the key text is not exactly 20 hex digits -/
  | invalidKeyFormat
  /-- the IV text is not exactly 20 hex digits -/
  | invalidIvFormat
  /-- the ciphertext has a character that is no hex digit, or an odd number of digits -/
  | malformedCiphertext
  deriving DecidableEq, Repr

/-- A text of exactly 20 hex digits as 80 bits, or the caller's error (R193, R194). -/
def parse80 (e : HostError) (text : List Char) : Except HostError (BitVec 80) :=
  match hexToBinary text with
  | some bs => if text.length = 20 then .ok (seqOfBits 80 bs) else .error e
  | none => .error e

/-- The key parse (R193). -/
def parseKey (text : List Char) : Except HostError Key := parse80 .invalidKeyFormat text

/-- The IV parse (R193). -/
def parseIv (text : List Char) : Except HostError Iv := parse80 .invalidIvFormat text

/-- The ciphertext parse: hex digits, a multiple of 8 bits (R197). -/
def parseCiphertext (text : List Char) : Except HostError (List Bit) :=
  match hexToBinary text with
  | some bs => if bs.length % 8 = 0 then .ok bs else .error .malformedCiphertext
  | none => .error .malformedCiphertext

/-- The host drives the commands `is`, one a cycle, and collects `ks_bit_o` in each cycle with `ks_valid_o = 1` (R143,
R203): the registers after the last cycle and the bits, in order. -/
def driveLines (σ : Regs) : List Instr → Regs × List Bit
  | [] => (σ, [])
  | i :: rest =>
    let σ' := next σ (encode i)
    let r := driveLines σ' rest
    (r.1, if (outputs σ').ks_valid_o then (outputs σ').ks_bit_o :: r.2 else r.2)

/-- The lines of one session: INIT, WAIT 1152, GEN n (R196, R254). -/
def sessionLines (key : Key) (iv : Iv) (n : Nat) : List Instr := expandAll [.initw (portOf key) (portOf iv), .gen n]

/-- Bitwise exclusive OR of two sequences (R196). -/
def xorBits (p z : List Bit) : List Bit := List.zipWith xor p z

/-- `encryptTrivium(P, key, iv)` on a CORE with registers σ: the result and the registers after it (R196, R198, R202).
On an error no command is issued (R193). -/
def encryptOn (σ : Regs) (text : List Byte) (key iv : List Char) : Except HostError (List Char) × Regs :=
  match parseKey key, parseIv iv with
  | .error e, _ => (.error e, σ)
  | .ok _, .error e => (.error e, σ)
  | .ok k, .ok v =>
    let p := bitsOfBytes text
    let r := driveLines σ (sessionLines k v p.length)
    (.ok (binaryToHex (xorBits p r.2)), r.1)

/-- `decryptTrivium(H, key, iv)` on a CORE with registers σ (R197, R198). -/
def decryptOn (σ : Regs) (text : List Char) (key iv : List Char) : Except HostError (List Byte) × Regs :=
  match parseKey key, parseIv iv, parseCiphertext text with
  | .error e, _, _ => (.error e, σ)
  | .ok _, .error e, _ => (.error e, σ)
  | .ok _, .ok _, .error e => (.error e, σ)
  | .ok k, .ok v, .ok c =>
    let r := driveLines σ (sessionLines k v c.length)
    (.ok (bytesOfBits (xorBits c r.2)), r.1)

/-- `encryptTrivium` as a function of its arguments (R190): on a CORE just reset. -/
def encryptTrivium (text : List Byte) (key iv : List Char) : Except HostError (List Char) :=
  (encryptOn Regs.reset text key iv).1

/-- `encryptTrivium` of a text argument, first encoded as UTF-8 (R195). -/
def encryptText (text key iv : List Char) : Except HostError (List Char) := encryptTrivium (utf8Bytes text) key iv

/-- `decryptTrivium` as a function of its arguments (R190). -/
def decryptTrivium (text key iv : List Char) : Except HostError (List Byte) :=
  (decryptOn Regs.reset text key iv).1

/-- A host that presents STEP and, seeing `rej_o = 1`, presents it again, at most `tries` times (R203): the registers and
the bit, none if every try was rejected. -/
def reissueStep : Nat → Regs → Regs × Option Bit
  | 0, σ => (σ, none)
  | tries + 1, σ =>
    let σ' := next σ (encode .step)
    if (outputs σ').rej_o then reissueStep tries σ' else (σ', some (outputs σ').ks_bit_o)

end Sys2Proof.Machine
end

