-- ==== Sys2Proof/Safety.lean ====
section
/-! DEFINITION. The terms claims use: the acceptance matrix (R164), accepted and rejected commands, the invariants of a run
from reset (R167), and a run of cycles. -/

namespace Sys2Proof.Machine

/-- k cycles of the machine, one step each (R13). -/
def runCycles : Nat → State → Host.Outcome State Fault Refusal
  | 0, s => .next s
  | k + 1, s =>
    match step s with
    | .next s' => runCycles k s'
    | .fault r => .fault r
    | .refused r => .refused r

/-- The acceptance matrix (R164, R221, R222): the cause a command is rejected with in a phase; none where it is
accepted. -/
def rejectCause : Phase → Instr → Option (BitVec 2)
  | .idle, .nop => none
  | .idle, .init _ _ => none
  | .idle, .step => some causeNotReady
  | .idle, .wrstate _ => none
  | .idle, .rst => none
  | .warmup, .nop => none
  | .warmup, .init _ _ => some causeBusy
  | .warmup, .step => some causeBusy
  | .warmup, .wrstate _ => some causeBusy
  | .warmup, .rst => none
  | .ready, .nop => none
  | .ready, .init _ _ => none
  | .ready, .step => none
  | .ready, .wrstate _ => none
  | .ready, .rst => none

/-- The invariants of rule R167, but for the one on the state of a warm-up. -/
structure Regs.StatusInv (σ : Regs) : Prop where
  /-- `cnt` is 0 outside WARMUP -/
  cnt_zero : σ.phase ≠ .warmup → σ.cnt = 0#11
  /-- `cnt` is at most 1151 in WARMUP -/
  cnt_le : σ.phase = .warmup → σ.cnt.toNat ≤ 1151
  /-- a keystream bit is valid only in READY -/
  valid_ready : σ.ks_valid = true → σ.phase = .ready
  /-- no rejection is cause `00` -/
  rej_cause_iff : σ.rej = false ↔ σ.rej_cause = 0b00#2
  /-- cause `11` is never produced -/
  cause_ne : σ.rej_cause ≠ 0b11#2
  /-- a rejection and a keystream bit never come together -/
  not_both : ¬(σ.rej = true ∧ σ.ks_valid = true)

/-- The last invariant of rule R167: the state of a warm-up is `Upd^cnt(Load(K, IV))` for some key and IV. -/
def Regs.WarmupInv (σ : Regs) : Prop :=
  σ.phase = .warmup → ∃ (key : Key) (iv : Iv), σ.s = updIter σ.cnt.toNat (load key iv)

/-- The invariants of rule R167. -/
def Regs.Inv (σ : Regs) : Prop := σ.StatusInv ∧ σ.WarmupInv

/-- The invariants of rule R167, of the machine. -/
def State.Inv (s : State) : Prop := s.regs.Inv

end Sys2Proof.Machine
end

