-- ==== Sys2Proof/Certificates/Slice0/Obligations.lean ====
section
/-! DEFINITION. The statements for the provers. Each docstring names the rule of spec/ it formalises. -/

open Sys2Proof Sys2Proof.Machine

/-! ### Encoding -/

/-- R81: `rst_i` overrides `cmd_i`, and `cmd_i` selects one of the four commands. -/
def Obligations.PortsSelectCommand : Prop :=
  ∀ p : Ports,
    (p.rst_i = true → decode p = .rst) ∧
    (p.rst_i = false → p.cmd_i = 0b00#2 → decode p = .nop) ∧
    (p.rst_i = false → p.cmd_i = 0b01#2 → decode p = .init p.key_i p.iv_i) ∧
    (p.rst_i = false → p.cmd_i = 0b10#2 → decode p = .step) ∧
    (p.rst_i = false → p.cmd_i = 0b11#2 → decode p = .wrstate p.state_i)

/-- The eight words of the opcode table decode to their commands (R81, R84), and a number with a bit above the three of
`CW` is rejected; the rejection is the model's choice (log entry 5). -/
def Obligations.TableWordsDecode : Prop :=
  decodeTableWord 8 0b000 = some .nop ∧ decodeTableWord 8 0b001 = some (.init 0#80 0#80) ∧
  decodeTableWord 8 0b010 = some .step ∧ decodeTableWord 8 0b011 = some (.wrstate 0#288) ∧
  decodeTableWord 8 0b100 = some .rst ∧ decodeTableWord 8 0b101 = some .rst ∧
  decodeTableWord 8 0b110 = some .rst ∧ decodeTableWord 8 0b111 = some .rst ∧
  ∀ nbits w, 8 ≤ w → decodeTableWord nbits w = none

/-- R88: the command word and the operand ports a command's trace line encodes to; decoding them gives the command
back, every operand bit included. -/
def Obligations.EncodingRoundTrip : Prop :=
  (encode .nop).cw = 0b000#3 ∧
  (∀ key iv, (encode (.init key iv)).cw = 0b001#3 ∧ (encode (.init key iv)).key_i = key ∧
    (encode (.init key iv)).iv_i = iv) ∧
  (encode .step).cw = 0b010#3 ∧
  (∀ state, (encode (.wrstate state)).cw = 0b011#3 ∧ (encode (.wrstate state)).state_i = state) ∧
  (encode .rst).rst_i = true ∧
  ∀ i : Instr, i.wf = true → decode (encode i) = i

/-- The text of a command's trace line, every hex digit of its operands written out, is read back as that command, and
so it is with a label before it and any comment after it (R86). -/
def Obligations.TraceTextRoundTrip : Prop :=
  ∀ i : Instr,
    parseLine (printInstr i) = .ok { label := none, body := .command i } ∧
    ∀ comment : List Char,
      parseLine (['L', ':', ' '] ++ printInstr i ++ [' ', ';'] ++ comment) =
        .ok { label := some ['L'], body := .command i }

/-- R83, R49: two cycles whose ports agree on `rst_i`, on `cmd_i` where `rst_i = 0`, on `key_i` and `iv_i` where an INIT
is accepted and on `state_i` where a WRSTATE is accepted end in the same state. -/
def Obligations.UnreadPortsHaveNoEffect : Prop :=
  ∀ (s : State) (p q : Ports),
    p.rst_i = q.rst_i →
    (p.rst_i = false → p.cmd_i = q.cmd_i) →
    (p.rst_i = false → p.cmd_i = 0b01#2 → s.regs.phase ≠ .warmup → p.key_i = q.key_i ∧ p.iv_i = q.iv_i) →
    (p.rst_i = false → p.cmd_i = 0b11#2 → s.regs.phase ≠ .warmup → p.state_i = q.state_i) →
    step (s.drive p) = step (s.drive q)

/-- R87: what each pseudo-instruction abbreviates, as text and as the commands of its cycles. -/
def Obligations.PseudoInstructionsExpand : Prop :=
  (∀ n, (TraceBody.wait n).expand = List.replicate n .nop) ∧
  (∀ n, (TraceBody.gen n).expand = List.replicate n .step) ∧
  (∀ key iv, (TraceBody.initw key iv).expand = [.init key iv] ++ (TraceBody.wait 1152).expand) ∧
  (∀ key iv : BitVec 80,
    parseLine (['I', 'N', 'I', 'T', 'W', ' '] ++ hexText key ++ [',', ' '] ++ hexText iv) =
      .ok { label := none, body := .initw key iv })

/-! ### Bit order -/

/-- R65: the sequence each port carries, bit by bit; and a port's value in hex is the hex text of its sequence. -/
def Obligations.PortBitOrder : Prop :=
  (∀ (key_i : BitVec 80) k, k ≤ 79 → bitAt (keyOperand key_i) k = key_i.getLsbD (79 - k)) ∧
  (∀ (iv_i : BitVec 80) k, k ≤ 79 → bitAt (ivOperand iv_i) k = iv_i.getLsbD (79 - k)) ∧
  (∀ (state_i : BitVec 288) k, k ≤ 287 → bitAt (stateOperand state_i) k = state_i.getLsbD (287 - k)) ∧
  (∀ (σ : Regs) k, k ≤ 287 → (outputs σ).state_o.getLsbD (287 - k) = bitAt σ.s k) ∧
  (∀ key_i : BitVec 80, parseKey (hexText key_i) = .ok (keyOperand key_i)) ∧
  (∀ iv_i : BitVec 80, parseIv (hexText iv_i) = .ok (ivOperand iv_i)) ∧
  (∀ σ : Regs, hexText (outputs σ).state_o = binaryToHex (bitsOfSeq σ.s))

/-- R63: hex digits are bits most significant first: N digits give 4N bits, and `b[4j+m] = (h[j] >> (3-m)) & 1`. -/
def Obligations.HexDigitBitOrder : Prop :=
  ∀ (text : List Char) (bs : List Bit), hexToBinary text = some bs →
    bs.length = 4 * text.length ∧
    ∀ j m c v, m ≤ 3 → text[j]? = some c → hexValue c = some v →
      bs[4 * j + m]? = some (v.toNat.testBit (3 - m))

/-- R64: bytes are bits most significant first: L bytes give 8L bits, `b[8i+m] = (p[i] >> (7-m)) & 1`, and back. -/
def Obligations.ByteBitOrder : Prop :=
  ∀ p : List Byte,
    (bitsOfBytes p).length = 8 * p.length ∧
    (∀ i m b, m ≤ 7 → p[i]? = some b → (bitsOfBytes p)[8 * i + m]? = some (b.toNat.testBit (7 - m))) ∧
    bytesOfBits (bitsOfBytes p) = p

/-! ### The state updater -/

/-- R102, R103: the keystream bit is the sum of the six linear taps, before the nonlinear terms. -/
def Obligations.KeystreamBitIsLinearTapSum : Prop :=
  ∀ s : CipherState,
    (upd s).2 = ((bitAt s 65 ^^ bitAt s 92) ^^ (bitAt s 161 ^^ bitAt s 176) ^^ (bitAt s 242 ^^ bitAt s 287))

/-- R102, R104, R105: every bit of the next state, from the state before it. -/
def Obligations.UpdateNextStateBits : Prop :=
  ∀ (s : CipherState) (k : Nat), k ≤ 287 →
    bitAt (upd s).1 k =
      if k = 0 then (bitAt s 242 ^^ bitAt s 287) ^^ (bitAt s 285 && bitAt s 286) ^^ bitAt s 68
      else if k = 93 then (bitAt s 65 ^^ bitAt s 92) ^^ (bitAt s 90 && bitAt s 91) ^^ bitAt s 170
      else if k = 177 then (bitAt s 161 ^^ bitAt s 176) ^^ (bitAt s 174 && bitAt s 175) ^^ bitAt s 263
      else bitAt s (k - 1)

/-- R107: the next registers A, B and C. -/
def Obligations.UpdateRegisterForm : Prop :=
  ∀ s : CipherState,
    regA (upd s).1 = BitVec.cons (feedback3 s) (slice (regA s) 0 92) ∧
    regB (upd s).1 = BitVec.cons (feedback1 s) (slice (regB s) 0 83) ∧
    regC (upd s).1 = BitVec.cons (feedback2 s) (slice (regC s) 0 110)

/-- R109: `Upd` is a bijection on 288-bit states, undone by `updInverse`, and the state comes back from the next one by
the rule's equations. -/
def Obligations.UpdateIsBijection : Prop :=
  Function.Bijective (fun s : CipherState => (upd s).1) ∧
  (∀ s : CipherState, updInverse (upd s).1 = s ∧ (upd (updInverse s)).1 = s) ∧
  ∀ s : CipherState,
    (∀ k, 1 ≤ k ∧ k ≤ 92 ∨ 94 ≤ k ∧ k ≤ 176 ∨ 178 ≤ k ∧ k ≤ 287 → bitAt s (k - 1) = bitAt (upd s).1 k) ∧
    bitAt s 92 = (bitAt (upd s).1 93 ^^ bitAt s 65 ^^ (bitAt s 90 && bitAt s 91) ^^ bitAt s 170) ∧
    bitAt s 176 = (bitAt (upd s).1 177 ^^ bitAt s 161 ^^ (bitAt s 174 && bitAt s 175) ^^ bitAt s 263) ∧
    bitAt s 287 = (bitAt (upd s).1 0 ^^ bitAt s 242 ^^ (bitAt s 285 && bitAt s 286) ^^ bitAt s 68)

/-- R110: the all-zero state is a fixed point, the only state that updates to it, and no other state ever becomes it. -/
def Obligations.ZeroStateIsIsolatedFixedPoint : Prop :=
  upd 0#288 = (0#288, false) ∧
  (∀ s : CipherState, (upd s).1 = 0#288 → s = 0#288) ∧
  ∀ (j : Nat) (s : CipherState), s ≠ 0#288 → updIter j s ≠ 0#288

/-- R111: the corner cases of `Upd`: the dropped bits reach only `t1'`, `t2'`, `t3'` and z; the other AND taps shift on;
an AND term acts only when both inputs are 1; z depends on the six linear taps alone; the all-ones state. -/
def Obligations.UpdateCornerCases : Prop :=
  (∀ s s' : CipherState, (∀ k, k ≤ 287 → k ≠ 92 → bitAt s k = bitAt s' k) →
    ∀ k, k ≤ 287 → k ≠ 93 → bitAt (upd s).1 k = bitAt (upd s').1 k) ∧
  (∀ s s' : CipherState, (∀ k, k ≤ 287 → k ≠ 176 → bitAt s k = bitAt s' k) →
    ∀ k, k ≤ 287 → k ≠ 177 → bitAt (upd s).1 k = bitAt (upd s').1 k) ∧
  (∀ s s' : CipherState, (∀ k, k ≤ 287 → k ≠ 287 → bitAt s k = bitAt s' k) →
    ∀ k, k ≤ 287 → k ≠ 0 → bitAt (upd s).1 k = bitAt (upd s').1 k) ∧
  (∀ s : CipherState, bitAt (upd s).1 92 = bitAt s 91 ∧ bitAt (upd s).1 176 = bitAt s 175 ∧
    bitAt (upd s).1 287 = bitAt s 286) ∧
  (∀ s : CipherState,
    bitAt (upd s).1 93 = ((t1 s ^^ bitAt s 170) ^^ (if bitAt s 90 = true ∧ bitAt s 91 = true then true else false)) ∧
    bitAt (upd s).1 177 =
      ((t2 s ^^ bitAt s 263) ^^ (if bitAt s 174 = true ∧ bitAt s 175 = true then true else false)) ∧
    bitAt (upd s).1 0 = ((t3 s ^^ bitAt s 68) ^^ (if bitAt s 285 = true ∧ bitAt s 286 = true then true else false))) ∧
  (∀ s s' : CipherState, (∀ k ∈ [65, 92, 161, 176, 242, 287], bitAt s k = bitAt s' k) → (upd s).2 = (upd s').2) ∧
  ((upd (BitVec.allOnes 288)).2 = false ∧
    ∀ k, k ≤ 287 → bitAt (upd (BitVec.allOnes 288)).1 k = !(k = 0 || k = 93 || k = 177))

/-! ### The loader, INIT and the warm-up -/

/-- R120: every bit of `Load(K, IV)`. -/
def Obligations.LoadedStateBits : Prop :=
  ∀ (key : Key) (iv : Iv) (k : Nat), k ≤ 287 →
    bitAt (load key iv) k =
      if k ≤ 79 then bitAt key k
      else if k ≤ 92 then false
      else if k ≤ 172 then bitAt iv (k - 93)
      else if k ≤ 284 then false
      else true

/-- R121, R193, R194: bit k of a key given as 20 hex digits is bit `3 - (k mod 4)` of digit `k / 4`, and `Load` puts it
at `s[k]`; the same for the IV at `s[93+k]`. -/
def Obligations.KeyTextReachesState : Prop :=
  ∀ (keyText ivText : List Char) (key : Key) (iv : Iv),
    parseKey keyText = .ok key → parseIv ivText = .ok iv → ∀ k, k ≤ 79 →
      (∃ c v, keyText[k / 4]? = some c ∧ hexValue c = some v ∧
        bitAt (load (keyOperand (portOf key)) (ivOperand (portOf iv))) k = v.toNat.testBit (3 - k % 4)) ∧
      (∃ c v, ivText[k / 4]? = some c ∧ hexValue c = some v ∧
        bitAt (load (keyOperand (portOf key)) (ivOperand (portOf iv))) (93 + k) = v.toNat.testBit (3 - k % 4))

/-- R122: INIT completes in IDLE and READY with exactly these registers, and `busy_o`, `ready_o` in the next cycle; in
WARMUP it is rejected with BUSY and the running warm-up continues untouched. -/
def Obligations.InitLoadsAndStartsWarmup : Prop :=
  (∀ (key iv : BitVec 80) (s : State), s.regs.phase ≠ .warmup →
    ∃ t, exec (.init key iv) s = .next t ∧
      t = { s with regs :=
              { s := load (keyOperand key) (ivOperand iv), phase := .warmup, cnt := 0#11, ks_bit := false,
                ks_valid := false, rej := false, rej_cause := 0b00#2 } } ∧
      (outputs t.regs).busy_o = true ∧ (outputs t.regs).ready_o = false) ∧
  (∀ (key iv : BitVec 80) (s : State), s.regs.phase = .warmup →
    ∃ t, exec .nop s = .next t ∧
      exec (.init key iv) s = .next { t with regs := { t.regs with rej := true, rej_cause := 0b01#2 } })

/-- R128: `Init(K, IV)` is never all-zero, and two different pairs of key and IV never give the same initialized state. -/
def Obligations.InitializedStateNonzeroInjective : Prop :=
  (∀ (key : Key) (iv : Iv), initialized key iv ≠ 0#288) ∧
  ∀ (key key' : Key) (iv iv' : Iv), initialized key iv = initialized key' iv' → key = key' ∧ iv = iv'

/-- R123: in WARMUP every command but RST gives one update, counted; `ks_bit` keeps its value, `ks_valid` is 0, and every
command but NOP is rejected with BUSY. -/
def Obligations.WarmupUpdatesWhateverCommand : Prop :=
  ∀ (i : Instr) (s : State), s.regs.phase = .warmup → i ≠ .rst →
    ∃ t, exec i s = .next t ∧
      t.regs.s = (upd s.regs.s).1 ∧
      (s.regs.cnt = 1151#11 → t.regs.phase = .ready ∧ t.regs.cnt = 0#11) ∧
      (s.regs.cnt ≠ 1151#11 → t.regs.phase = .warmup ∧ t.regs.cnt = s.regs.cnt + 1#11) ∧
      t.regs.ks_bit = s.regs.ks_bit ∧ t.regs.ks_valid = false ∧
      (i = .nop → t.regs.rej = false ∧ t.regs.rej_cause = 0b00#2) ∧
      (i ≠ .nop → t.regs.rej = true ∧ t.regs.rej_cause = 0b01#2) ∧
      t.inputs = s.inputs ∧ t.cycle = s.cycle

/-- R124, R127, R129: an accepted INIT and 1152 cycles without RST: after j of them the state is `Upd^j(Load(K, IV))` and
on `state_o`, with WARMUP, `cnt = j` and `busy_o` before the 1152nd, and READY, `cnt = 0` and `ready_o` after it. -/
def Obligations.WarmupRunsExactly1152Updates : Prop :=
  ∀ (s : State) (p : Ports) (waits rest : List Ports) (key iv : BitVec 80),
    s.inputs = p :: (waits ++ rest) → decode p = .init key iv → s.regs.phase ≠ .warmup →
    waits.length = 1152 → (∀ q ∈ waits, q.rst_i = false) →
    ∀ j, j ≤ 1152 →
      ∃ t, runCycles (j + 1) s = .next t ∧
        t.regs.s = updIter j (load (keyOperand key) (ivOperand iv)) ∧
        (outputs t.regs).state_o = portOf (updIter j (load (keyOperand key) (ivOperand iv))) ∧
        (j < 1152 → t.regs.phase = .warmup ∧ t.regs.cnt.toNat = j ∧ (outputs t.regs).busy_o = true ∧
          (outputs t.regs).ready_o = false) ∧
        (j = 1152 → t.regs.phase = .ready ∧ t.regs.cnt = 0#11 ∧ (outputs t.regs).busy_o = false ∧
          (outputs t.regs).ready_o = true ∧
          t.regs.s = initialized (keyOperand key) (ivOperand iv))

/-- R125: through the whole warm-up no bit reaches the port: `ks_valid_o = 0` and `ks_bit_o = 0` in every cycle from the
one after INIT to the first READY one. -/
def Obligations.WarmupExposesNoKeystream : Prop :=
  ∀ (s : State) (p : Ports) (waits rest : List Ports) (key iv : BitVec 80),
    s.inputs = p :: (waits ++ rest) → decode p = .init key iv → s.regs.phase ≠ .warmup →
    waits.length = 1152 → (∀ q ∈ waits, q.rst_i = false) →
    ∀ j, j ≤ 1152 →
      ∃ t, runCycles (j + 1) s = .next t ∧ (outputs t.regs).ks_valid_o = false ∧ (outputs t.regs).ks_bit_o = false

/-! ### STEP and the keystream -/

/-- R140: STEP completes in READY: the update is written, its bit is the keystream bit, and nothing else changes. -/
def Obligations.StepProducesKeystreamBit : Prop :=
  ∀ s : State, s.regs.phase = .ready →
    exec .step s = .next { s with regs :=
      { s := (upd s.regs.s).1, phase := .ready, cnt := s.regs.cnt, ks_bit := (upd s.regs.s).2, ks_valid := true,
        rej := false, rej_cause := 0b00#2 } }

/-- R141: STEP outside READY is rejected: NOT_READY in IDLE with nothing else changed, BUSY in WARMUP, where the update
of the warm-up happens anyway; no bit is produced. -/
def Obligations.StepOutsideReadyIsRejected : Prop :=
  (∀ s : State, s.regs.phase = .idle →
    exec .step s = .next { s with regs :=
      { s.regs with ks_valid := false, rej := true, rej_cause := 0b10#2 } }) ∧
  (∀ s : State, s.regs.phase = .warmup →
    ∃ t, exec .step s = .next t ∧ t.regs.s = (upd s.regs.s).1 ∧ t.regs.ks_bit = s.regs.ks_bit ∧
      t.regs.ks_valid = false ∧ t.regs.rej = true ∧ t.regs.rej_cause = 0b01#2 ∧
      t.regs.phase = (if s.regs.cnt = 1151#11 then .ready else .warmup) ∧
      t.regs.cnt = (if s.regs.cnt = 1151#11 then 0#11 else s.regs.cnt + 1#11))

/-- R142, R143, R147: from a READY state `S_0`, whatever NOPs stand between the STEPs, the i-th accepted STEP gives
`z_i = Upd(Upd^{i-1}(S_0)).z`, and n of them leave `Upd^n(S_0)`. -/
def Obligations.KeystreamNumbering : Prop :=
  ∀ (σ : Regs) (is : List Instr), σ.phase = .ready → (∀ i ∈ is, i = .step ∨ i = .nop) →
    (driveLines σ is).1.s = updIter (is.count .step) σ.s ∧
    (driveLines σ is).1.phase = .ready ∧
    (driveLines σ is).2.length = is.count .step ∧
    ∀ i, i < is.count .step → (driveLines σ is).2[i]? = some (upd (updIter i σ.s)).2

/-- R142 after INIT: the i-th bit of a session is `Upd(Upd^{1152+i-1}(Load(K, IV))).z`. -/
def Obligations.KeystreamAfterInit : Prop :=
  ∀ (σ : Regs) (key iv : BitVec 80) (n : Nat), σ.phase ≠ .warmup →
    (driveLines σ (expandAll [.initw key iv, .gen n])).2.length = n ∧
    ∀ i, 1 ≤ i → i ≤ n →
      (driveLines σ (expandAll [.initw key iv, .gen n])).2[i - 1]? =
        some (upd (updIter (1152 + i - 1) (load (keyOperand key) (ivOperand iv)))).2

/-- The bits and registers the host gets by driving commands are those of the machine's steps (R13, R143). -/
def Obligations.DrivingIsStepping : Prop :=
  ∀ (s : State) (is : List Instr) (rest : List Ports), s.inputs = is.map encode ++ rest →
    runCycles is.length s =
      .next { regs := (driveLines s.regs is).1, inputs := rest, cycle := s.cycle + is.length }

/-- R145: WRSTATE of a state read from `state_o` resumes the keystream at that state's position. -/
def Obligations.SavedStateResumesKeystream : Prop :=
  ∀ (σ saved : Regs) (n : Nat), σ.phase ≠ .warmup →
    (driveLines σ (.wrstate (outputs saved).state_o :: List.replicate n .step)).2 = keystream n saved.s

/-! ### NOP, WRSTATE, RST and the cycle -/

/-- R160: NOP completes in every phase: the defaults only, and in WARMUP the warm-up update. -/
def Obligations.NopKeepsRegisters : Prop :=
  (∀ s : State, s.regs.phase ≠ .warmup →
    exec .nop s = .next { s with regs :=
      { s.regs with ks_valid := false, rej := false, rej_cause := 0b00#2 } }) ∧
  (∀ s : State, s.regs.phase = .warmup →
    exec .nop s = .next { s with regs :=
      { s := (upd s.regs.s).1, phase := if s.regs.cnt = 1151#11 then .ready else .warmup,
        cnt := if s.regs.cnt = 1151#11 then 0#11 else s.regs.cnt + 1#11, ks_bit := s.regs.ks_bit,
        ks_valid := false, rej := false, rej_cause := 0b00#2 } })

/-- R161: WRSTATE completes in IDLE and READY with any state value, and `ready_o` is 1 in the next cycle; in WARMUP it is
rejected with BUSY. -/
def Obligations.WrstateWritesState : Prop :=
  (∀ (state : BitVec 288) (s : State), s.regs.phase ≠ .warmup →
    ∃ t, exec (.wrstate state) s = .next t ∧
      t = { s with regs :=
              { s := stateOperand state, phase := .ready, cnt := 0#11, ks_bit := false, ks_valid := false,
                rej := false, rej_cause := 0b00#2 } } ∧
      (outputs t.regs).ready_o = true) ∧
  (∀ (state : BitVec 288) (s : State), s.regs.phase = .warmup →
    ∃ t, exec .nop s = .next t ∧
      exec (.wrstate state) s = .next { t with regs := { t.regs with rej := true, rej_cause := 0b01#2 } })

/-- R162, R250: RST completes in every state: at that edge every register takes its reset value, whatever `cmd_i` and the
operand ports hold. -/
def Obligations.RstResetsFromEveryState : Prop :=
  (∀ s : State, exec .rst s = .next { s with regs := Regs.reset }) ∧
  ∀ (s : State) (p : Ports), p.rst_i = true →
    step (s.drive p) = .next { regs := Regs.reset, inputs := s.inputs.tail, cycle := s.cycle + 1 }

/-- R163: one step of the machine is one `Next(σ_n, in_n)`. -/
def Obligations.StepIsNext : Prop :=
  ∀ s : State,
    step s = .next { regs := next s.regs s.ports, inputs := s.inputs.tail, cycle := s.cycle + 1 }

/-- A step runs the command decoded from the first listed ports, with the inputs moved on one cycle; in a cycle with no
listed ports the ports are free values (log entry 2). -/
def Obligations.StepRunsDecodedCommand : Prop :=
  (∀ (σ : Regs) (p : Ports) (ps : List Ports) (n : Nat) (i : Instr), decode p = i →
    step { regs := σ, inputs := p :: ps, cycle := n } = exec i { regs := σ, inputs := ps, cycle := n + 1 }) ∧
  (∀ (σ : Regs) (n : Nat),
    step { regs := σ, inputs := [], cycle := n } =
      exec (decode (freePorts n)) { regs := σ, inputs := [], cycle := n + 1 })

/-- R42, R221, R222, R164: the command of a cycle is rejected exactly where the acceptance matrix says, and the report of
the next cycle is `rej` with the cause code, and nothing where it is accepted. -/
def Obligations.RejectReportFollowsMatrix : Prop :=
  ∀ (i : Instr) (s : State),
    ∃ t, exec i s = .next t ∧
      (t.regs.rej = true ↔
        (s.regs.phase = .warmup ∧ i ≠ .nop ∧ i ≠ .rst) ∨ (s.regs.phase = .idle ∧ i = .step)) ∧
      (t.regs.rej = true → s.regs.phase = .warmup → t.regs.rej_cause = 0b01#2) ∧
      (t.regs.rej = true → s.regs.phase = .idle → t.regs.rej_cause = 0b10#2) ∧
      (t.regs.rej = false → t.regs.rej_cause = 0b00#2) ∧
      (t.regs.rej = (rejectCause s.regs.phase i).isSome)

/-- R165: all the edges of the phase machine. The premise is the invariant of R167 on `cnt`, stated to hold in every
state a run reaches (`EveryStepKeepsInvariants`). -/
def Obligations.PhaseMachineEdges : Prop :=
  ∀ (i : Instr) (s : State), s.regs.StatusInv →
    ∃ t, exec i s = .next t ∧
      (t.regs.phase = .idle ↔ i = .rst ∨ (s.regs.phase = .idle ∧ (i = .nop ∨ i = .step))) ∧
      (t.regs.phase = .warmup ↔
        (s.regs.phase ≠ .warmup ∧ ∃ key iv, i = .init key iv) ∨
        (s.regs.phase = .warmup ∧ i ≠ .rst ∧ s.regs.cnt.toNat < 1151)) ∧
      (t.regs.phase = .ready ↔
        (s.regs.phase ≠ .warmup ∧ ∃ state, i = .wrstate state) ∨
        (s.regs.phase = .warmup ∧ i ≠ .rst ∧ s.regs.cnt.toNat = 1151) ∨
        (s.regs.phase = .ready ∧ (i = .nop ∨ i = .step)))

/-- R166: the cycle is total, and with RST in the first cycle the whole run is a function of the inputs, whatever the
registers held before. -/
def Obligations.RunAfterResetIsFunctionOfInputs : Prop :=
  (∀ s : State, ∃ t, step s = .next t) ∧
  ∀ (s s' : State), s.inputs = s'.inputs → s.cycle = s'.cycle → s.ports.rst_i = true →
    ∀ n, ∃ t, runCycles (n + 1) s = .next t ∧ runCycles (n + 1) s' = .next t

/-- R167 at reset: the invariants hold in the state right after reset. -/
def Obligations.InvariantsHoldAtReset : Prop := State.reset.Inv

/-- R167: every step keeps the invariants, whatever the inputs: the bounds of `cnt`, what `ks_valid`, `rej` and
`rej_cause` imply, and `s = Upd^cnt(Load(K, IV))` through a warm-up. -/
def Obligations.EveryStepKeepsInvariants : Prop :=
  ∀ s t : State, s.Inv → step s = .next t → t.Inv

/-- R35: what each command leaves in `s`, and that nothing else writes it. -/
def Obligations.OnlyTheseWriteCipherState : Prop :=
  ∀ (i : Instr) (s : State),
    ∃ t, exec i s = .next t ∧
      (t.regs.s ≠ s.regs.s →
        (i = .rst ∧ t.regs.s = 0#288) ∨ (i ≠ .rst ∧ s.regs.phase = .warmup ∧ t.regs.s = (upd s.regs.s).1) ∨
        (s.regs.phase ≠ .warmup ∧ ∃ key iv, i = .init key iv ∧ t.regs.s = load (keyOperand key) (ivOperand iv)) ∨
        (s.regs.phase = .ready ∧ i = .step ∧ t.regs.s = (upd s.regs.s).1) ∨
        (s.regs.phase ≠ .warmup ∧ ∃ state, i = .wrstate state ∧ t.regs.s = stateOperand state))

/-- The frame of every command beside the registers other statements name: `cnt` is written only by RST, INIT, the
warm-up update and WRSTATE (R39), `phase` only where `cnt` may be; the inputs still to come and the cycle count never
(R30, R69). -/
def Obligations.FrameOfCommands : Prop :=
  ∀ (i : Instr) (s : State),
    ∃ t, exec i s = .next t ∧ t.inputs = s.inputs ∧ t.cycle = s.cycle ∧
      (s.regs.phase ≠ .warmup → i = .nop ∨ i = .step → t.regs.cnt = s.regs.cnt ∧ t.regs.phase = s.regs.phase) ∧
      (s.regs.phase ≠ .warmup → i = .nop → t.regs.s = s.regs.s ∧ t.regs.ks_bit = s.regs.ks_bit) ∧
      (s.regs.phase = .idle → i = .step → t.regs.s = s.regs.s ∧ t.regs.ks_bit = s.regs.ks_bit) ∧
      (t.regs.cnt ≠ s.regs.cnt →
        i = .rst ∨ s.regs.phase = .warmup ∨ (∃ key iv, i = .init key iv) ∨ (∃ state, i = .wrstate state))

/-- R40, R41: only an accepted STEP sets `ks_bit` to a keystream bit; RST, INIT and WRSTATE clear it; nothing else writes
it, the warm-up update included; and `ks_valid` is 1 in the next cycle exactly when a STEP was accepted in this one. -/
def Obligations.KeystreamRegistersFollowStep : Prop :=
  ∀ (i : Instr) (s : State),
    ∃ t, exec i s = .next t ∧
      (s.regs.phase = .ready → i = .step → t.regs.ks_bit = (upd s.regs.s).2) ∧
      (i = .rst → t.regs.ks_bit = false) ∧
      (s.regs.phase ≠ .warmup → (∃ key iv, i = .init key iv) ∨ (∃ state, i = .wrstate state) →
        t.regs.ks_bit = false) ∧
      (i = .nop ∨ (i = .step ∧ s.regs.phase ≠ .ready) ∨ (i ≠ .rst ∧ s.regs.phase = .warmup) →
        t.regs.ks_bit = s.regs.ks_bit) ∧
      (t.regs.ks_valid = true ↔ i = .step ∧ s.regs.phase = .ready)

/-- R43, R48: every output is a function of the registers of the cycle; the ports of the cycle do not reach it; in IDLE
neither status output is 1, and never both. -/
def Obligations.OutputsShowRegisters : Prop :=
  (∀ σ : Regs, (∀ k, k ≤ 287 → (outputs σ).state_o.getLsbD (287 - k) = bitAt σ.s k) ∧
    (outputs σ).ks_bit_o = σ.ks_bit ∧ (outputs σ).ks_valid_o = σ.ks_valid ∧
    ((outputs σ).busy_o = true ↔ σ.phase = .warmup) ∧ ((outputs σ).ready_o = true ↔ σ.phase = .ready) ∧
    (outputs σ).rej_o = σ.rej ∧ (outputs σ).rej_cause_o = σ.rej_cause ∧
    (σ.phase = .idle → (outputs σ).busy_o = false ∧ (outputs σ).ready_o = false) ∧
    ¬((outputs σ).busy_o = true ∧ (outputs σ).ready_o = true)) ∧
  ∀ (s : State) (p : Ports), outputs (s.drive p).regs = outputs s.regs

/-! ### Rejections -/

/-- R220, R230: a rejected command leaves exactly what NOP leaves in the same cycle, plus the report, even where the
report register already holds one. -/
def Obligations.RejectionIsNopPlusReport : Prop :=
  ∀ (i : Instr) (s : State) (cause : BitVec 2), rejectCause s.regs.phase i = some cause →
    ∃ t, exec .nop s = .next t ∧
      exec i s = .next { t with regs := { t.regs with rej := true, rej_cause := cause } }

/-- R223: a run of k rejected commands gives k cycles of `rej_o = 1`, each with no keystream bit, and the report is gone
after the next command that is accepted. -/
def Obligations.ReportPerRejectedCommand : Prop :=
  ∀ (σ : Regs) (n : Nat), σ.phase = .idle →
    (∀ k, 1 ≤ k → k ≤ n →
      (outputs (driveLines σ (List.replicate k .step)).1).rej_o = true ∧
      (outputs (driveLines σ (List.replicate k .step)).1).rej_cause_o = 0b10#2 ∧
      (outputs (driveLines σ (List.replicate k .step)).1).ks_valid_o = false) ∧
    (outputs (driveLines σ (List.replicate n .step ++ [.nop])).1).rej_o = false ∧
    (outputs (driveLines σ (List.replicate n .step ++ [.nop])).1).rej_cause_o = 0b00#2

/-- R229: a command other than NOP in the last cycle of a warm-up is rejected with BUSY though `ready_o` is 1 in the next
cycle, in which the same command is accepted. -/
def Obligations.LastWarmupCycleRejects : Prop :=
  ∀ (i : Instr) (s : State), s.regs.phase = .warmup → s.regs.cnt = 1151#11 → i ≠ .nop → i ≠ .rst →
    ∃ t u, exec i s = .next t ∧ t.regs.rej = true ∧ t.regs.rej_cause = 0b01#2 ∧ t.regs.ks_valid = false ∧
      (outputs s.regs).ready_o = false ∧ (outputs t.regs).ready_o = true ∧
      exec i t = .next u ∧ u.regs.rej = false

/-! ### Reset and boot -/

/-- R45: the register values after a reset; the state they leave is not an initialized one, and STEP is rejected there. -/
def Obligations.ResetValues : Prop :=
  State.reset.regs =
    { s := 0#288, phase := .idle, cnt := 0#11, ks_bit := false, ks_valid := false, rej := false,
      rej_cause := 0b00#2 } ∧
  ∀ s : State, s.regs = State.reset.regs →
    exec .step s = .next { s with regs := { s.regs with rej := true, rej_cause := 0b10#2 } }

/-- R251: while `rst_i = 1` the registers hold the reset values after the first edge, and the first cycle with
`rst_i = 0` sees phase IDLE and every status output 0. -/
def Obligations.HeldResetKeepsResetValues : Prop :=
  ∀ (s : State) (resets rest : List Ports), s.inputs = resets ++ rest → (∀ p ∈ resets, p.rst_i = true) →
    ∀ n, 1 ≤ n → n ≤ resets.length →
      ∃ t, runCycles n s = .next t ∧ t.regs = Regs.reset ∧
        outputs t.regs = { state_o := 0#288, ks_bit_o := false, ks_valid_o := false, busy_o := false,
                           ready_o := false, rej_o := false, rej_cause_o := 0b00#2 }

/-- R253: after reset the CORE is in IDLE; only INIT, to WARMUP, and WRSTATE, to READY, leave IDLE; STEP there is rejected
and NOP keeps it. -/
def Obligations.IdleLeftByInitOrWrstateOnly : Prop :=
  State.reset.regs.phase = .idle ∧
  ∀ (i : Instr) (s : State), s.regs.phase = .idle →
    ∃ t, exec i s = .next t ∧
      (t.regs.phase ≠ .idle ↔ (∃ key iv, i = .init key iv) ∨ (∃ state, i = .wrstate state)) ∧
      ((∃ key iv, i = .init key iv) → t.regs.phase = .warmup) ∧
      ((∃ state, i = .wrstate state) → t.regs.phase = .ready) ∧
      (i = .step → t.regs.rej = true ∧ t.regs.rej_cause = 0b10#2) ∧ (i = .nop → t.regs = s.regs.defaults)

/-- R254: from any state, power-up included, RST, INIT, 1152 NOPs and n STEPs give the first n keystream bits of the key
and IV, and the machine ends READY in the state n updates on. -/
def Obligations.BootSequenceYieldsKeystream : Prop :=
  ∀ (s : State) (key iv : BitVec 80) (n : Nat) (rest : List Ports),
    s.inputs = (.rst :: .init key iv :: (List.replicate 1152 .nop ++ List.replicate n .step)).map encode ++ rest →
    (driveLines s.regs (.rst :: .init key iv :: (List.replicate 1152 .nop ++ List.replicate n .step))).2 =
      keystream n (initialized (keyOperand key) (ivOperand iv)) ∧
    ∃ t, runCycles (1154 + n) s = .next t ∧ t.inputs = rest ∧ t.regs.phase = .ready ∧
      t.regs.s = updIter n (initialized (keyOperand key) (ivOperand iv))

/-! ### The host contract -/

/-- R191: hex text is read exactly where every character is one of `0-9`, `A-F`, `a-f`, and its case does not matter. -/
def Obligations.HexAlphabetAndCase : Prop :=
  (∀ text : List Char, (hexToBinary text).isSome = true ↔
    ∀ c ∈ text, ('0' ≤ c ∧ c ≤ '9') ∨ ('A' ≤ c ∧ c ≤ 'F') ∨ ('a' ≤ c ∧ c ≤ 'f')) ∧
  ∀ text : List Char, hexToBinary (text.map Char.toLower) = hexToBinary text

/-- R192: each group of four bits from the start is one lower-case digit, a short last group filled with zeros at its low
end. -/
def Obligations.HexDigitsOfBitGroups : Prop :=
  ∀ bs : List Bit,
    (binaryToHex bs).length = (bs.length + 3) / 4 ∧
    ∀ j c, (binaryToHex bs)[j]? = some c →
      (('0' ≤ c ∧ c ≤ '9') ∨ ('a' ≤ c ∧ c ≤ 'f')) ∧
      ∃ v, hexValue c = some v ∧ ∀ m, m ≤ 3 → v.toNat.testBit (3 - m) = (bs[4 * j + m]?).getD false

/-- R201: for every hex string, `binaryToHex(hexToBinary(H))` is H in lower case. -/
def Obligations.HexRoundTripLowercases : Prop :=
  ∀ (text : List Char) (bs : List Bit), hexToBinary text = some bs → binaryToHex bs = text.map Char.toLower

/-- R193, R198: a key that is not 20 hex digits fails first, then such an IV, and the CORE is left as it was: no command
is issued. -/
def Obligations.FormatErrorsIssueNoCommand : Prop :=
  ∀ (σ : Regs) (bytes : List Byte) (cipher key iv : List Char),
    (¬(key.length = 20 ∧ (hexToBinary key).isSome = true) →
      encryptOn σ bytes key iv = (.error .invalidKeyFormat, σ) ∧
      decryptOn σ cipher key iv = (.error .invalidKeyFormat, σ)) ∧
    (key.length = 20 ∧ (hexToBinary key).isSome = true → ¬(iv.length = 20 ∧ (hexToBinary iv).isSome = true) →
      encryptOn σ bytes key iv = (.error .invalidIvFormat, σ) ∧
      decryptOn σ cipher key iv = (.error .invalidIvFormat, σ)) ∧
    (key.length = 20 ∧ (hexToBinary key).isSome = true → iv.length = 20 ∧ (hexToBinary iv).isSome = true →
      ¬(cipher.length % 2 = 0 ∧ (hexToBinary cipher).isSome = true) →
      decryptOn σ cipher key iv = (.error .malformedCiphertext, σ))

/-- R196: on a CORE in IDLE or READY, encryption gives the hex of the plaintext's bits and the keystream of the key and
IV added bit by bit. -/
def Obligations.EncryptionIsKeystreamSum : Prop :=
  ∀ (σ : Regs) (bytes : List Byte) (keyText ivText : List Char) (key : Key) (iv : Iv),
    σ.phase ≠ .warmup → parseKey keyText = .ok key → parseIv ivText = .ok iv →
    (encryptOn σ bytes keyText ivText).1 =
      .ok (binaryToHex (List.zipWith xor (bitsOfBytes bytes) (keystream (8 * bytes.length) (initialized key iv))))

/-- R197: on a CORE in IDLE or READY, decryption gives the bytes of the ciphertext's bits and the same keystream added
bit by bit. -/
def Obligations.DecryptionIsKeystreamSum : Prop :=
  ∀ (σ : Regs) (cipher keyText ivText : List Char) (key : Key) (iv : Iv) (c : List Bit),
    σ.phase ≠ .warmup → parseKey keyText = .ok key → parseIv ivText = .ok iv → hexToBinary cipher = some c →
    cipher.length % 2 = 0 →
    (decryptOn σ cipher keyText ivText).1 =
      .ok (bytesOfBits (List.zipWith xor c (keystream c.length (initialized key iv))))

/-- R200: `decrypt(encrypt(P, K, IV), K, IV) = P`, through the CORE both times. -/
def Obligations.DecryptInvertsEncrypt : Prop :=
  ∀ (bytes : List Byte) (key iv cipher : List Char),
    encryptTrivium bytes key iv = .ok cipher → decryptTrivium cipher key iv = .ok bytes

/-- R199: empty input gives empty output with a valid key and IV, and the error of a malformed key or else IV. -/
def Obligations.EmptyInput : Prop :=
  ∀ key iv : List Char,
    ((∃ k, parseKey key = .ok k) → (∃ v, parseIv iv = .ok v) →
      encryptTrivium [] key iv = .ok [] ∧ decryptTrivium [] key iv = .ok []) ∧
    (¬(∃ k, parseKey key = .ok k) →
      encryptTrivium [] key iv = .error .invalidKeyFormat ∧ decryptTrivium [] key iv = .error .invalidKeyFormat) ∧
    ((∃ k, parseKey key = .ok k) → ¬(∃ v, parseIv iv = .ok v) →
      encryptTrivium [] key iv = .error .invalidIvFormat ∧ decryptTrivium [] key iv = .error .invalidIvFormat)

/-- R202: each `encryptTrivium` or `decryptTrivium` call on a CORE in IDLE or READY answers what it answers on any other
such CORE, its errors included, and so does the call after it, whatever the first call was and however it ended. The
registers after a call that reads at least one keystream bit do not depend on the registers it found either. -/
def Obligations.SessionsAreIsolated : Prop :=
  ∀ (σ τ ρ : Regs) (bytes₀ bytes : List Byte) (cipher₀ cipher key₀ key iv₀ iv : List Char),
    σ.phase ≠ .warmup → τ.phase ≠ .warmup →
    (ρ = σ ∨ ρ = (encryptOn σ bytes₀ key₀ iv₀).2 ∨ ρ = (decryptOn σ cipher₀ key₀ iv₀).2) →
    (encryptOn ρ bytes key iv).1 = (encryptOn τ bytes key iv).1 ∧
    (decryptOn ρ cipher key iv).1 = (decryptOn τ cipher key iv).1 ∧
    ((∃ k, parseKey key = .ok k) → (∃ v, parseIv iv = .ok v) →
      (bytes ≠ [] → (encryptOn ρ bytes key iv).2 = (encryptOn τ bytes key iv).2) ∧
      (cipher ≠ [] → (∃ c, parseCiphertext cipher = .ok c) →
        (decryptOn ρ cipher key iv).2 = (decryptOn τ cipher key iv).2))

/-- The model's choice (log entry 8), where R199 lets a host skip the INIT: a call of empty input with a valid key and IV
on a CORE in IDLE or READY drives the INIT all the same and leaves READY with the initialized state. -/
def Obligations.EmptySessionStillInitializes : Prop :=
  ∀ (σ : Regs) (keyText ivText : List Char) (key : Key) (iv : Iv),
    σ.phase ≠ .warmup → parseKey keyText = .ok key → parseIv ivText = .ok iv →
    (encryptOn σ [] keyText ivText).2 = { Regs.reset with s := initialized key iv, phase := .ready } ∧
    (decryptOn σ [] keyText ivText).2 = { Regs.reset with s := initialized key iv, phase := .ready }

/-- R203, R255: a host that reissues a rejected STEP through a warm-up with `cnt = c` gets its bit at the try after
`1152 - c` rejections, and it is the first bit of the initialized state; with fewer tries it gets none. -/
def Obligations.ReissuedStepGetsItsBit : Prop :=
  ∀ (σ : Regs), σ.phase = .warmup → σ.cnt.toNat ≤ 1151 →
    (reissueStep (1152 - σ.cnt.toNat + 1) σ).2 = some (upd (updIter (1152 - σ.cnt.toNat) σ.s)).2 ∧
    ∀ tries, tries ≤ 1152 - σ.cnt.toNat → (reissueStep tries σ).2 = none
end

