-- ==== Sys2Proof/Laws/Seq.lean ====
section
/-! SUPPORT. Bit sequences element by element. -/

namespace Sys2Proof.Machine

/-- Two sequences with the same elements are the same. -/
theorem seq_ext {w : Nat} {x y : BitVec w} (h : ∀ k, k < w → bitAt x k = bitAt y k) : x = y :=
  BitVec.eq_of_getMsbD_eq fun k hk => h k hk

/-- An element is a bit counted from the least significant end. -/
theorem bitAt_eq_getLsbD {w : Nat} (x : BitVec w) {k : Nat} (h : k < w) : bitAt x k = x.getLsbD (w - 1 - k) := by
  simp [bitAt, BitVec.getMsbD, h]

/-- Beyond the end there is no 1. -/
theorem bitAt_of_le {w : Nat} (x : BitVec w) {k : Nat} (h : w ≤ k) : bitAt x k = false := by
  simp [bitAt, BitVec.getMsbD, Nat.not_lt.mpr h]

/-- `(x ++ y)[k]`. -/
theorem bitAt_append {v w : Nat} (x : BitVec v) (y : BitVec w) (k : Nat) :
    bitAt (x ++ y) k = if k < v then bitAt x k else bitAt y (k - v) := by
  by_cases h : k < v <;> simp [bitAt, BitVec.getMsbD_append, h]

/-- `(v :: x)[k]`. -/
theorem bitAt_cons {w : Nat} (v : Bit) (x : BitVec w) (k : Nat) :
    bitAt (BitVec.cons v x) k = if k = 0 then v else bitAt x (k - 1) := by
  by_cases h : k = 0
  · subst h; simp [bitAt]
  · by_cases hw : k < w + 1
    · rw [bitAt_eq_getLsbD _ hw, if_neg h, bitAt_eq_getLsbD _ (by omega), BitVec.getLsbD_cons, if_neg (by omega)]
      congr 1; omega
    · rw [bitAt_of_le _ (by omega), if_neg h, bitAt_of_le _ (by omega)]

/-- `x[a .. a+n-1][k]`. -/
theorem bitAt_slice {w : Nat} (x : BitVec w) (a n k : Nat) (h : a + n ≤ w) (hk : k < n) :
    bitAt (slice x a n) k = bitAt x (a + k) := by
  rw [bitAt_eq_getLsbD _ hk, bitAt_eq_getLsbD _ (by omega), slice, BitVec.getLsbD_extractLsb']
  simp only [show n - 1 - k < n by omega, decide_true, Bool.true_and]
  congr 1; omega

/-- An element of the all-zero sequence. -/
@[simp] theorem bitAt_zero (w k : Nat) : bitAt (0#w) k = false := by simp [bitAt]

end Sys2Proof.Machine
end

