-- ==== Sys2Proof/Laws/Hex.lean ====
section
/-! SUPPORT. The host's conversions and the tokens of a trace line, piece by piece. -/

namespace Sys2Proof.Machine

/-- A sequence has as many bits as its width. -/
@[simp] theorem bitsOfSeq_length {w : Nat} (x : BitVec w) : (bitsOfSeq x).length = w := by simp [bitsOfSeq]

/-- Element k of the sequence made of a list's bits. -/
theorem bitAt_seqOfBits (n : Nat) (bs : List Bit) (k : Nat) (h : k < n) :
    bitAt (seqOfBits n bs) k = (bs[k]?).getD false := by
  induction n generalizing bs k with
  | zero => omega
  | succ n ih =>
    cases bs with
    | nil => simp [seqOfBits]
    | cons b bs =>
      rw [seqOfBits, bitAt_cons]
      cases k with
      | zero => simp
      | succ k => simp [ih bs k (by omega)]

/-- The sequence of a sequence's own bits. -/
theorem seqOfBits_bitsOfSeq {w : Nat} (x : BitVec w) : seqOfBits w (bitsOfSeq x) = x := by
  apply seq_ext
  intro k hk
  rw [bitAt_seqOfBits _ _ _ hk]
  simp [bitsOfSeq, hk]

/-- A digit has the value it was made of. -/
theorem hexValue_hexDigit (v : BitVec 4) : hexValue (hexDigit v) = some v := by
  revert v; decide

/-- Hex text that is read: its first digit's four bits, then the rest. -/
theorem hexToBinary_cons {c : Char} {cs : List Char} {bs : List Bit} (h : hexToBinary (c :: cs) = some bs) :
    ∃ v b, hexValue c = some v ∧ hexToBinary cs = some b ∧ bs = bitsOfSeq v ++ b := by
  simp only [hexToBinary] at h
  split at h
  · rename_i v b h1 h2
    exact ⟨v, b, h1, h2, by simpa using h.symm⟩
  · simp at h

/-- A character that ends no token. -/
def wordChar (c : Char) : Bool := c != ';' && c != ' ' && c != '\t' && c != ',' && c != ':'

/-- Word characters are gathered into the token being read. -/
theorem tokens_word (cur w rest : List Char) (h : ∀ c ∈ w, wordChar c = true) :
    tokens cur (w ++ rest) = tokens (cur ++ w) rest := by
  induction w generalizing cur with
  | nil => simp
  | cons c w ih =>
    obtain ⟨⟨⟨⟨a, b⟩, d⟩, e⟩, f⟩ : (((c ≠ ';' ∧ c ≠ ' ') ∧ c ≠ '\t') ∧ c ≠ ',') ∧ c ≠ ':' := by
      simpa [wordChar] using h c (by simp)
    simp only [List.cons_append, tokens]
    rw [if_neg a, if_neg (by simp [b, d]), if_neg (by simp [e, f]), ih _ (fun c hc => h c (by simp [hc]))]
    simp

end Sys2Proof.Machine
end

