-- ==== Sys2Proof/Laws/State.lean ====
section
/-! SUPPORT. One lemma per field per update of the state and of the registers, each true by rfl. -/

namespace Sys2Proof.Machine

@[simp] theorem withRegs_regs (s : State) (σ : Regs) : (s.withRegs σ).regs = σ := rfl
@[simp] theorem withRegs_inputs (s : State) (σ : Regs) : (s.withRegs σ).inputs = s.inputs := rfl
@[simp] theorem withRegs_cycle (s : State) (σ : Regs) : (s.withRegs σ).cycle = s.cycle := rfl

@[simp] theorem advance_regs (s : State) : s.advance.regs = s.regs := rfl
@[simp] theorem advance_inputs (s : State) : s.advance.inputs = s.inputs.tail := rfl
@[simp] theorem advance_cycle (s : State) : s.advance.cycle = s.cycle + 1 := rfl

@[simp] theorem drive_regs (s : State) (p : Ports) : (s.drive p).regs = s.regs := rfl
@[simp] theorem drive_inputs (s : State) (p : Ports) : (s.drive p).inputs = p :: s.inputs.tail := rfl
@[simp] theorem drive_cycle (s : State) (p : Ports) : (s.drive p).cycle = s.cycle := rfl
@[simp] theorem drive_ports (s : State) (p : Ports) : (s.drive p).ports = p := rfl

@[simp] theorem ports_of_listed (σ : Regs) (p : Ports) (ps : List Ports) (n : Nat) :
    (State.mk σ (p :: ps) n).ports = p := rfl
@[simp] theorem ports_of_unlisted (σ : Regs) (n : Nat) : (State.mk σ [] n).ports = freePorts n := rfl

@[simp] theorem defaults_s (σ : Regs) : σ.defaults.s = σ.s := rfl
@[simp] theorem defaults_phase (σ : Regs) : σ.defaults.phase = σ.phase := rfl
@[simp] theorem defaults_cnt (σ : Regs) : σ.defaults.cnt = σ.cnt := rfl
@[simp] theorem defaults_ks_bit (σ : Regs) : σ.defaults.ks_bit = σ.ks_bit := rfl
@[simp] theorem defaults_ks_valid (σ : Regs) : σ.defaults.ks_valid = false := rfl
@[simp] theorem defaults_rej (σ : Regs) : σ.defaults.rej = false := rfl
@[simp] theorem defaults_rej_cause (σ : Regs) : σ.defaults.rej_cause = 0b00#2 := rfl

@[simp] theorem reject_s (σ : Regs) (c : BitVec 2) : (σ.reject c).s = σ.s := rfl
@[simp] theorem reject_phase (σ : Regs) (c : BitVec 2) : (σ.reject c).phase = σ.phase := rfl
@[simp] theorem reject_cnt (σ : Regs) (c : BitVec 2) : (σ.reject c).cnt = σ.cnt := rfl
@[simp] theorem reject_ks_bit (σ : Regs) (c : BitVec 2) : (σ.reject c).ks_bit = σ.ks_bit := rfl
@[simp] theorem reject_ks_valid (σ : Regs) (c : BitVec 2) : (σ.reject c).ks_valid = σ.ks_valid := rfl
@[simp] theorem reject_rej (σ : Regs) (c : BitVec 2) : (σ.reject c).rej = true := rfl
@[simp] theorem reject_rej_cause (σ : Regs) (c : BitVec 2) : (σ.reject c).rej_cause = c := rfl

@[simp] theorem initArm_s (σ : Regs) (k v : BitVec 80) :
    (initArm σ k v).s = load (keyOperand k) (ivOperand v) := rfl
@[simp] theorem initArm_phase (σ : Regs) (k v : BitVec 80) : (initArm σ k v).phase = .warmup := rfl
@[simp] theorem initArm_cnt (σ : Regs) (k v : BitVec 80) : (initArm σ k v).cnt = 0#11 := rfl
@[simp] theorem initArm_ks_bit (σ : Regs) (k v : BitVec 80) : (initArm σ k v).ks_bit = false := rfl
@[simp] theorem initArm_ks_valid (σ : Regs) (k v : BitVec 80) : (initArm σ k v).ks_valid = σ.ks_valid := rfl
@[simp] theorem initArm_rej (σ : Regs) (k v : BitVec 80) : (initArm σ k v).rej = σ.rej := rfl
@[simp] theorem initArm_rej_cause (σ : Regs) (k v : BitVec 80) : (initArm σ k v).rej_cause = σ.rej_cause := rfl

@[simp] theorem wrstateArm_s (σ : Regs) (x : BitVec 288) : (wrstateArm σ x).s = stateOperand x := rfl
@[simp] theorem wrstateArm_phase (σ : Regs) (x : BitVec 288) : (wrstateArm σ x).phase = .ready := rfl
@[simp] theorem wrstateArm_cnt (σ : Regs) (x : BitVec 288) : (wrstateArm σ x).cnt = 0#11 := rfl
@[simp] theorem wrstateArm_ks_bit (σ : Regs) (x : BitVec 288) : (wrstateArm σ x).ks_bit = false := rfl
@[simp] theorem wrstateArm_ks_valid (σ : Regs) (x : BitVec 288) : (wrstateArm σ x).ks_valid = σ.ks_valid := rfl
@[simp] theorem wrstateArm_rej (σ : Regs) (x : BitVec 288) : (wrstateArm σ x).rej = σ.rej := rfl
@[simp] theorem wrstateArm_rej_cause (σ : Regs) (x : BitVec 288) : (wrstateArm σ x).rej_cause = σ.rej_cause := rfl

@[simp] theorem stepArm_s (σ σ' : Regs) : (stepArm σ σ').s = (upd σ.s).1 := rfl
@[simp] theorem stepArm_phase (σ σ' : Regs) : (stepArm σ σ').phase = σ'.phase := rfl
@[simp] theorem stepArm_cnt (σ σ' : Regs) : (stepArm σ σ').cnt = σ'.cnt := rfl
@[simp] theorem stepArm_ks_bit (σ σ' : Regs) : (stepArm σ σ').ks_bit = (upd σ.s).2 := rfl
@[simp] theorem stepArm_ks_valid (σ σ' : Regs) : (stepArm σ σ').ks_valid = true := rfl
@[simp] theorem stepArm_rej (σ σ' : Regs) : (stepArm σ σ').rej = σ'.rej := rfl
@[simp] theorem stepArm_rej_cause (σ σ' : Regs) : (stepArm σ σ').rej_cause = σ'.rej_cause := rfl

end Sys2Proof.Machine
end

