-- ==== Sys2Proof/Laws/Ops.lean ====
section
/-! SUPPORT. For each shared operation, one lemma that says all it can do, and the inversion of a run. -/

namespace Sys2Proof.Machine

/-- What the warm-up arm writes, on any registers it is given (R123). -/
theorem warmupArm_fields (σ σ' : Regs) :
    (warmupArm σ σ').s = (upd σ.s).1 ∧
    (warmupArm σ σ').phase = (if σ.cnt = 1151#11 then .ready else σ'.phase) ∧
    (warmupArm σ σ').cnt = (if σ.cnt = 1151#11 then 0#11 else σ.cnt + 1#11) ∧
    (warmupArm σ σ').ks_bit = σ'.ks_bit ∧ (warmupArm σ σ').ks_valid = σ'.ks_valid ∧
    (warmupArm σ σ').rej = σ'.rej ∧ (warmupArm σ σ').rej_cause = σ'.rej_cause := by
  unfold warmupArm Config.lastWarmup
  split <;> simp_all

/-- Every command answers a next state that differs from the state before it in the registers only. -/
theorem exec_cases (i : Instr) (s : State) : ∃ σ, exec i s = .next (s.withRegs σ) := by
  cases i <;> exact ⟨_, rfl⟩

/-- The commands in a phase that is not WARMUP, arm by arm. -/
theorem exec_init_of_ne {s : State} (h : s.regs.phase ≠ .warmup) (k v : BitVec 80) :
    exec (.init k v) s = .next (s.withRegs (initArm s.regs.defaults k v)) := by
  simp [exec, execInit, h]

theorem exec_wrstate_of_ne {s : State} (h : s.regs.phase ≠ .warmup) (x : BitVec 288) :
    exec (.wrstate x) s = .next (s.withRegs (wrstateArm s.regs.defaults x)) := by
  simp [exec, execWrstate, h]

theorem exec_nop_of_ne {s : State} (h : s.regs.phase ≠ .warmup) :
    exec .nop s = .next (s.withRegs s.regs.defaults) := by
  simp [exec, execNop, h]

/-- In WARMUP every command but RST gives the warm-up's cycle, with the BUSY report unless it is NOP (R163). -/
theorem exec_in_warmup {i : Instr} {s : State} (h : s.regs.phase = .warmup) (hi : i ≠ .rst) :
    exec i s = .next (s.withRegs (if i = .nop then warmupCycle s.regs else busyCycle s.regs)) := by
  cases i <;> simp_all [exec, execNop, execInit, execStep, execWrstate]

/-- A step is the command on the ports, run after the inputs have moved on. -/
theorem step_eq (s : State) : step s = exec (decode s.ports) s.advance := rfl

/-- A run of no cycle. -/
theorem runCycles_zero (s : State) : runCycles 0 s = .next s := rfl

/-- A run of k + 1 cycles whose first step is known. -/
theorem runCycles_of_step {s s' : State} (h : step s = .next s') (k : Nat) :
    runCycles (k + 1) s = runCycles k s' := by
  simp [runCycles, h]

/-- A run of cycles is the host's run of the machine. -/
theorem runCycles_eq_core_run (k : Nat) (s : State) : runCycles k s = Host.Core.run Sys2Proof.core k s := by
  induction k generalizing s with
  | zero => rfl
  | succ k ih =>
    obtain ⟨σ, hσ⟩ := exec_cases s.command s.advance
    have h : step s = .next (s.advance.withRegs σ) := hσ
    rw [runCycles_of_step h, ih]
    simp only [Host.Core.run, show Sys2Proof.core.step s = .next (s.advance.withRegs σ) from h]
    rfl

/-- The phase register's two bits give back the phase they encode, and `11` is IDLE (R37, R38). -/
theorem phaseOfCode_phaseCode (p : Phase) : phaseOfCode (phaseCode p) = p := by cases p <;> rfl

theorem phaseOfCode_unused : phaseOfCode 0b11#2 = .idle := rfl

/-- An instance's registers after a cycle depend on its own registers and ports alone (R234). -/
theorem instancesNext_getElem? {σs : List Regs} {ins : List Ports} {k : Nat} {σ : Regs} {p : Ports}
    (hσ : σs[k]? = some σ) (hp : ins[k]? = some p) : (instancesNext σs ins)[k]? = some (next σ p) := by
  simp [instancesNext, List.getElem?_zipWith, hσ, hp]

/-- One update, then j more. -/
theorem updIter_succ (j : Nat) (s : CipherState) : updIter (j + 1) s = updIter j (upd s).1 := rfl

/-- j updates, then one more. -/
theorem updIter_succ_last (j : Nat) (s : CipherState) : updIter (j + 1) s = (upd (updIter j s)).1 := by
  induction j generalizing s with
  | zero => rfl
  | succ j ih => rw [updIter_succ, ih, updIter_succ]

/-- Updates add up. -/
theorem updIter_add (i j : Nat) (s : CipherState) : updIter (i + j) s = updIter j (updIter i s) := by
  induction i generalizing s with
  | zero => simp [updIter]
  | succ i ih => rw [Nat.succ_add, updIter_succ, ih, updIter_succ]

end Sys2Proof.Machine
end

