-- ==== Sys2Proof/Laws/PerInstr.lean ====
section
/-! SUPPORT. Family TableRow: the command word of each command is a word of its row of spec/opcode_table.json. -/

namespace Sys2Proof.Laws.TableRow

/-- The row's "mask" in spec/opcode_table.json. -/
def mask : Instr → BitVec 3
  | .nop => 0b111#3
  | .init _ _ => 0b111#3
  | .step => 0b111#3
  | .wrstate _ => 0b111#3
  | .rst => 0b100#3

/-- The row's "match" in spec/opcode_table.json. -/
def bits : Instr → BitVec 3
  | .nop => 0b000#3
  | .init _ _ => 0b001#3
  | .step => 0b010#3
  | .wrstate _ => 0b011#3
  | .rst => 0b100#3

/-- The instruction is well formed and its command word meets its row's mask and match. -/
def Statement (i : Instr) : Prop := i.wf = true ∧ (encode i).cw &&& mask i = bits i

theorem nop : Statement .nop := ⟨rfl, by decide⟩
theorem init (key iv : BitVec 80) : Statement (.init key iv) := ⟨rfl, by simp [encode, portsOf, Ports.cw, mask, bits]; decide⟩
theorem step : Statement .step := ⟨rfl, by decide⟩
theorem wrstate (state : BitVec 288) : Statement (.wrstate state) := ⟨rfl, by simp [encode, portsOf, Ports.cw, mask, bits]; decide⟩
theorem rst : Statement .rst := ⟨rfl, by decide⟩

end Sys2Proof.Laws.TableRow
end

