-- ==== Sys2Proof/Tests/Slice0.lean ====
section
/-! SUPPORT. Tests against the vectors of spec/95_test_vectors.md and the words of rule R81, the smoke test of
WellFormed, and a witness for the hypotheses of each statement. -/

set_option exponentiation.threshold 300

namespace Sys2Proof.Tests

open Sys2Proof Sys2Proof.Machine

/-- Registers with the given phase, counter and cipher state, `ks_bit = 1` and every flag 0. -/
def regsOf (phase : Phase) (cnt : BitVec 11) (s : CipherState) : Regs :=
  { s := s, phase := phase, cnt := cnt, ks_bit := true, ks_valid := false, rej := false, rej_cause := 0b00#2 }

/-- A machine with those registers and no input listed. -/
def stateOf (phase : Phase) (cnt : BitVec 11) (s : CipherState) : State :=
  { regs := regsOf phase cnt s, inputs := [], cycle := 0 }

/-- V-LOAD-1. -/
def l0 : CipherState := 0x7#288

/-- V-WARM, j = 1151 (key 0, IV 0). -/
def warm1151 : CipherState := 0x42b1925d70cea92c6e39b08a3404ea04099042afe96ad15f6d230b971c35fcc8fc246a93#288

/-- V-INIT-1. -/
def init1 : CipherState := 0xa158c92eb8675496371cd8451a02750204c82157f4b528afb69185cb8e1afe647e123549#288

/-- Twenty zero hex digits. -/
def zeros20 : List Char := List.replicate 20 '0'

/-- The registers of a next state; the reset registers where there is none. -/
def regsAfter : Host.Outcome State Fault Refusal → Regs
  | .next s => s.regs
  | .fault _ => Regs.reset
  | .refused _ => Regs.reset

/-! ### WellFormed and decoding -/

theorem test_wellformed_refuses_four_bit_word : isCommandWord 8 = false ∧ isCommandWord 7 = true := by decide
theorem test_wellformed_instr : ∀ i : Instr, i.wf = true := by intro i; cases i <;> rfl
theorem test_decode_rejects_by_name : commandWord 8 = .error (.notACommandWord 8) := by decide

/-- CW 000 (R81). -/
theorem test_decode_nop :
    decode { rst_i := false, cmd_i := 0b00#2, key_i := 0x1#80, iv_i := 0x2#80, state_i := 0x3#288 } = .nop := by decide
/-- CW 001, the key and IV on their ports (R81, R82). -/
theorem test_decode_init :
    decode { rst_i := false, cmd_i := 0b01#2, key_i := 0x0123456789abcdef0123#80, iv_i := 0xfedcba9876543210fedc#80,
             state_i := 0x3#288 } = .init 0x0123456789abcdef0123#80 0xfedcba9876543210fedc#80 := by decide
/-- CW 010 (R81). -/
theorem test_decode_step :
    decode { rst_i := false, cmd_i := 0b10#2, key_i := 0x1#80, iv_i := 0x2#80, state_i := 0x3#288 } = .step := by decide
/-- CW 011, the state on its port (R81, R82). -/
theorem test_decode_wrstate :
    decode { rst_i := false, cmd_i := 0b11#2, key_i := 0x1#80, iv_i := 0x2#80, state_i := 0x7#288 } =
      .wrstate 0x7#288 := by decide
/-- CW 1xx (R81). -/
theorem test_decode_rst :
    decode { rst_i := true, cmd_i := 0b10#2, key_i := 0x1#80, iv_i := 0x2#80, state_i := 0x3#288 } = .rst := by decide
/-- The word of INIT on the ports after reset is the first command the machine runs. -/
theorem test_fetch_word_runs_first :
    (State.reset.withFetchWord 8 0b001).command = .init 0#80 0#80 ∧
    regsAfter (step (State.reset.withFetchWord 8 0b001)) =
      { Regs.reset with s := l0, phase := .warmup } := by decide

/-! ### The functions -/

/-- V-UPD-2: tap `s[65]`. -/
theorem test_upd_2 :
    upd 0x000000000000000040000000000000000000000000000000000000000000000000000000#288 =
      (0x000000000000000020000004000000000000000000000000000000000000000000000000#288, true) := by decide
/-- V-UPD-10: the AND term of B. -/
theorem test_upd_10 :
    upd 0x000000000000000000000000000000000000000000030000000000000000000000000000#288 =
      (0x00000000000000000000000000000000000000000001c000000000000000000000000000#288, false) := by decide
/-- V-UPD-21: all three sums from one snapshot. -/
theorem test_upd_21 :
    upd 0x000000000000000040000000000000000000000040000000000000000000200000000000#288 =
      (0x800000000000000020000004000000000000000020004000000000000000100000000000#288, true) := by decide
/-- V-LOAD-6: the key from `s[0]` and the IV from the middle of digit 23. -/
theorem test_load_6 :
    load (keyOperand 0x0123456789abcdef0123#80) (ivOperand 0xfedcba9876543210fedc#80) =
      0x0123456789abcdef01230007f6e5d4c3b2a19087f6e00000000000000000000000000007#288 := by decide
/-- The three registers tile the state (R7, R32). -/
theorem test_registers_tile (s : CipherState) : regA s ++ regB s ++ regC s = s := by
  apply BitVec.eq_of_getLsbD_eq
  intro i hi
  simp only [regA, regB, regC, slice, BitVec.getLsbD_append, BitVec.getLsbD_extractLsb']
  by_cases h1 : i < 111
  · simp [h1]
  · by_cases h2 : i - 111 < 84
    · simp [h1, h2, show 111 + (i - 111) = i by omega]
    · simp [h1, h2, show i - 111 - 84 < 93 by omega, show 195 + (i - 111 - 84) = i by omega]

/-! ### One step of each command -/

/-- V-CTRL-14. -/
theorem test_nop_ready :
    regsAfter (exec .nop { stateOf .ready 0#11 l0 with regs := { regsOf .ready 0#11 l0 with ks_valid := true } }) =
      regsOf .ready 0#11 l0 := by decide
/-- V-CTRL-10: the last warm-up update. -/
theorem test_nop_ends_warmup :
    regsAfter (exec .nop (stateOf .warmup 1151#11 warm1151)) = regsOf .ready 0#11 init1 := by decide
/-- V-CTRL-15: INIT in READY discards the session before. -/
theorem test_init_ready :
    regsAfter (exec (.init 0#80 0#80) (stateOf .ready 0#11 init1)) =
      { regsOf .warmup 0#11 l0 with ks_bit := false } := by decide
/-- V-CTRL-7: INIT in WARMUP is rejected and the warm-up goes on. -/
theorem test_init_busy :
    regsAfter (exec (.init 0x80000000000000000000#80 0#80) (stateOf .warmup 0#11 l0)) =
      { regsOf .warmup 1#11 0x3#288 with rej := true, rej_cause := 0b01#2 } := by decide
/-- V-CTRL-13. -/
theorem test_step_ready :
    regsAfter (exec .step (stateOf .ready 0#11 init1)) =
      { regsOf .ready 0#11 0x50ac64975c33aa4b1b8e6c268d013a81026410abfa5ad457db48c2e5c70d7f323f091aa4#288 with
        ks_valid := true } := by decide
/-- V-CTRL-11: STEP in the last warm-up cycle. -/
theorem test_step_last_warmup_cycle :
    regsAfter (exec .step (stateOf .warmup 1151#11 warm1151)) =
      { regsOf .ready 0#11 init1 with rej := true, rej_cause := 0b01#2 } := by decide
/-- V-CTRL-3: STEP in IDLE. -/
theorem test_step_idle :
    regsAfter (exec .step State.reset) = { Regs.reset with rej := true, rej_cause := 0b10#2 } := by decide
/-- V-CTRL-16. -/
theorem test_wrstate_ready :
    regsAfter (exec (.wrstate 0x7#288) (stateOf .ready 0#11 init1)) =
      { regsOf .ready 0#11 l0 with ks_bit := false } := by decide
/-- V-CTRL-8. -/
theorem test_wrstate_busy :
    regsAfter (exec (.wrstate 0xff#288) (stateOf .warmup 0#11 l0)) =
      { regsOf .warmup 1#11 0x3#288 with rej := true, rej_cause := 0b01#2 } := by decide
/-- V-CTRL-12: RST abandons a warm-up. -/
theorem test_rst_warmup : regsAfter (exec .rst (stateOf .warmup 10#11 l0)) = Regs.reset := by decide

/-! ### The host layer and the trace syntax -/

/-- L1-6 and V-HOST-17. -/
theorem test_hex :
    hexToBinary ['A', 'B'] = some [true, false, true, false, true, false, true, true] ∧
    binaryToHex [true, false, true, false, true, false, true, true] = ['a', 'b'] ∧
    binaryToHex [true, false, true] = ['a'] := by decide
/-- V-HOST-6: the UTF-8 bytes of a two-byte character. -/
theorem test_utf8 : utf8Bytes ['é'] = [0xC3#8, 0xA9#8] := by decide
/-- V-HOST-13, L1-4 and V-HOST-16: a malformed key. -/
theorem test_bad_keys :
    parseKey ['s', 'h', 'o', 'r', 't'] = .error .invalidKeyFormat ∧
    parseKey (List.replicate 40 '0') = .error .invalidKeyFormat ∧
    parseKey (List.replicate 19 '0' ++ ['G']) = .error .invalidKeyFormat := by decide
/-- V-HOST-10 and V-HOST-11. -/
theorem test_bad_ciphertext :
    parseCiphertext ['9', '7', '6'] = .error .malformedCiphertext ∧
    parseCiphertext ['9', '7', 'g', '6'] = .error .malformedCiphertext := by decide
/-- R86, R87: lines of program P5, with a label, a comment and a count. -/
theorem test_trace_lines :
    parseLine ['R', 'S', 'T'] = .ok { label := none, body := .command .rst } ∧
    parseLine ['l', ':', ' ', 'W', 'A', 'I', 'T', ' ', '1', '0', ' ', ';', 'x'] =
      .ok { label := some ['l'], body := .wait 10 } ∧
    parseLine ['I', 'N', 'I', 'T', ' ', '0', ',', ' ', '0'] = .error .badHexOperand := by decide

/-- R86, R87: a trace of two lines, three cycles; and the first bad line's error. -/
theorem test_assemble :
    assemble [['R', 'S', 'T'], ['G', 'E', 'N', ' ', '2', ' ', ';']] = .ok [.rst, .step, .step] ∧
    assemble [['N', 'O', 'P'], ['G', 'E', 'N', ' ', 'x']] = .error .badCount := by decide

/-- V-CTRL-1: RST from the unspecified power-up values (R46, R252). -/
theorem test_rst_power_up : step (State.powerUp [encode .rst]) = .next ⟨Regs.reset, [], 1⟩ := rfl

/-! ### Witnesses: a state and operands that meet the hypotheses of each statement -/

/-- PortsSelectCommand: each clause. -/
theorem witness_PortsSelectCommand :
    (encode .rst).rst_i = true ∧ (encode .nop).rst_i = false ∧ (encode .nop).cmd_i = 0b00#2 ∧
    (encode (.init 1#80 2#80)).cmd_i = 0b01#2 ∧ (encode .step).cmd_i = 0b10#2 ∧
    (encode (.wrstate 5#288)).rst_i = false ∧ (encode (.wrstate 5#288)).cmd_i = 0b11#2 := by decide

/-- TableWordsDecode: the least number rejected. -/
theorem witness_TableWordsDecode : (8 : Nat) ≤ 8 ∧ decodeTableWord 8 8 = none := by decide

/-- EncodingRoundTrip: an instruction with every operand bit set. -/
theorem witness_EncodingRoundTrip : (Instr.init (BitVec.allOnes 80) (BitVec.allOnes 80)).wf = true := rfl

/-- UnreadPortsHaveNoEffect: two STEPs with different operand ports, and two RSTs with different `cmd_i`. -/
theorem witness_UnreadPortsHaveNoEffect :
    (∃ p q : Ports, p ≠ q ∧ p.rst_i = q.rst_i ∧ (p.rst_i = false → p.cmd_i = q.cmd_i) ∧
      (p.rst_i = false → p.cmd_i = 0b01#2 → (stateOf .ready 0#11 l0).regs.phase ≠ .warmup →
        p.key_i = q.key_i ∧ p.iv_i = q.iv_i) ∧
      (p.rst_i = false → p.cmd_i = 0b11#2 → (stateOf .ready 0#11 l0).regs.phase ≠ .warmup →
        p.state_i = q.state_i)) ∧
    (∃ p q : Ports, p.cmd_i ≠ q.cmd_i ∧ p.rst_i = true ∧ q.rst_i = true) :=
  ⟨⟨portsOf 0b010#3 1#80 2#80 3#288, portsOf 0b010#3 4#80 5#80 6#288, by decide, by decide, by decide, by decide,
    by decide⟩, ⟨portsOf 0b100#3 0#80 0#80 0#288, portsOf 0b111#3 0#80 0#80 0#288, by decide, by decide, by decide⟩⟩

/-- PortBitOrder: the first and the last element of each port. -/
theorem witness_PortBitOrder :
    bitAt (keyOperand 0x80000000000000000000#80) 0 = true ∧ bitAt (keyOperand 1#80) 79 = true ∧
    bitAt (stateOperand 1#288) 287 = true := by decide

/-- HexDigitBitOrder: both clauses at the ends of their ranges. -/
theorem witness_HexDigitBitOrder :
    hexToBinary ['A', 'b'] = some [true, false, true, false, true, false, true, true] ∧
    (['A', 'b'] : List Char)[1]? = some 'b' ∧ hexValue 'b' = some 0xb#4 ∧ (3 : Nat) ≤ 3 := by decide

/-- ByteBitOrder: the last bit of the last byte. -/
theorem witness_ByteBitOrder : ([0x48#8, 0x69#8] : List Byte)[1]? = some 0x69#8 ∧ (7 : Nat) ≤ 7 := by decide

/-- UpdateNextStateBits and LoadedStateBits: the positions where the clauses meet. -/
theorem witness_position_bounds :
    (0 : Nat) ≤ 287 ∧ 79 ≤ 287 ∧ 80 ≤ 287 ∧ 92 ≤ 287 ∧ 93 ≤ 287 ∧ 172 ≤ 287 ∧ 173 ≤ 287 ∧ 177 ≤ 287 ∧ 284 ≤ 287 ∧
    285 ≤ 287 ∧ 287 ≤ 287 := by decide

/-- UpdateIsBijection: the shifted positions at the ends of each register. -/
theorem witness_UpdateIsBijection :
    ∀ k ∈ [1, 92, 94, 176, 178, 287], 1 ≤ k ∧ k ≤ 92 ∨ 94 ≤ k ∧ k ≤ 176 ∨ 178 ≤ k ∧ k ≤ 287 := by decide

/-- ZeroStateIsIsolatedFixedPoint: a state that is not all-zero, and the one that updates to zero. -/
theorem witness_ZeroStateIsIsolatedFixedPoint : l0 ≠ 0#288 ∧ (upd 0#288).1 = 0#288 := by decide

set_option maxRecDepth 4000 in
/-- UpdateCornerCases: two different states that agree but for the dropped bit of A, of B and of C, and two that agree on
the six linear taps. -/
theorem witness_UpdateCornerCases :
    (∀ k ∈ List.range 288, k ≠ 92 → bitAt (0x8#288 <<< 192) k = bitAt 0#288 k) ∧
    (∀ k ∈ List.range 288, k ≠ 176 → bitAt (0x8#288 <<< 108) k = bitAt 0#288 k) ∧
    (∀ k ∈ List.range 288, k ≠ 287 → bitAt 1#288 k = bitAt 0#288 k) ∧
    (∀ k ∈ [65, 92, 161, 176, 242, 287], bitAt 2#288 k = bitAt 0#288 k) := by decide

set_option maxRecDepth 2000 in
/-- KeyTextReachesState and the host statements: texts that parse. -/
theorem witness_key_texts : parseKey zeros20 = .ok 0#80 ∧ parseIv zeros20 = .ok 0#80 := by decide

/-- The statements with a premise on the phase: a state in each phase. -/
theorem witness_phases :
    (stateOf .idle 0#11 l0).regs.phase = .idle ∧ (stateOf .ready 0#11 l0).regs.phase = .ready ∧
    (stateOf .warmup 5#11 l0).regs.phase = .warmup ∧ (stateOf .ready 0#11 l0).regs.phase ≠ .warmup := by decide

/-- InitializedStateNonzeroInjective: two equal initialized states. -/
theorem witness_InitializedStateNonzeroInjective : initialized 3#80 5#80 = initialized 3#80 5#80 := rfl

/-- WarmupUpdatesWhateverCommand: both clauses of the counter, under a NOP and under another command. -/
theorem witness_WarmupUpdatesWhateverCommand :
    (stateOf .warmup 1151#11 l0).regs.phase = .warmup ∧ (stateOf .warmup 1151#11 l0).regs.cnt = 1151#11 ∧
    (stateOf .warmup 1150#11 l0).regs.cnt ≠ 1151#11 ∧ Instr.nop ≠ .rst ∧ Instr.step ≠ .rst ∧ Instr.step ≠ .nop := by
  decide

/-- WarmupRunsExactly1152Updates and WarmupExposesNoKeystream: an INIT, a rejected STEP and NOPs on the ports. -/
theorem witness_warmup_run :
    ∃ (s : State) (p : Ports) (waits rest : List Ports),
      s.inputs = p :: (waits ++ rest) ∧ decode p = .init 3#80 5#80 ∧ s.regs.phase ≠ .warmup ∧ waits.length = 1152 ∧
      (∀ q ∈ waits, q.rst_i = false) ∧ (0 : Nat) ≤ 1152 ∧ 1151 < 1152 ∧ (1152 : Nat) ≤ 1152 := by
  refine ⟨{ stateOf .ready 0#11 l0 with
    inputs := encode (.init 3#80 5#80) :: ((encode .step :: List.replicate 1151 (encode .nop)) ++ []) },
    encode (.init 3#80 5#80), encode .step :: List.replicate 1151 (encode .nop), [], rfl, by decide, by decide,
    by rw [List.length_cons, List.length_replicate], ?_, by omega, by omega, by omega⟩
  intro q hq
  rcases List.mem_cons.1 hq with rfl | hq
  · rfl
  · rw [List.eq_of_mem_replicate hq]; rfl

/-- KeystreamNumbering: STEPs with a NOP between them, and the first and last bit. -/
theorem witness_KeystreamNumbering :
    (regsOf .ready 0#11 l0).phase = .ready ∧ (∀ i ∈ [Instr.step, .nop, .step], i = .step ∨ i = .nop) ∧
    0 < [Instr.step, .nop, .step].count .step ∧ 1 < [Instr.step, .nop, .step].count .step := by decide

/-- KeystreamAfterInit: a CORE in IDLE, and the first and last of three bits. -/
theorem witness_KeystreamAfterInit : Regs.reset.phase ≠ .warmup ∧ (1 : Nat) ≤ 1 ∧ (1 : Nat) ≤ 3 ∧ (3 : Nat) ≤ 3 := by
  decide

/-- DrivingIsStepping: two commands on the ports. -/
theorem witness_DrivingIsStepping :
    ({ stateOf .idle 0#11 l0 with inputs := [encode .rst, encode .step] } : State).inputs =
      [Instr.rst, .step].map encode ++ [] := rfl

/-- RstResetsFromEveryState: ports with `rst_i = 1` and another `cmd_i`. -/
theorem witness_RstResetsFromEveryState : (portsOf 0b111#3 1#80 2#80 3#288).rst_i = true := by decide

/-- StepRunsDecodedCommand: a command on the ports. -/
theorem witness_StepRunsDecodedCommand : decode (encode (.wrstate 7#288)) = .wrstate 7#288 := by decide

/-- RejectReportFollowsMatrix: a rejection in each of the two phases, and an accepted command. -/
theorem witness_RejectReportFollowsMatrix :
    (regsAfter (exec .step (stateOf .warmup 0#11 l0))).rej = true ∧
    (regsAfter (exec .step (stateOf .idle 0#11 l0))).rej = true ∧
    (regsAfter (exec .nop (stateOf .idle 0#11 l0))).rej = false := by decide

/-- PhaseMachineEdges and EveryStepKeepsInvariants: a state in the middle of a warm-up that meets the invariants, and one
that steps from it. -/
theorem witness_invariants :
    (stateOf .warmup 0#11 (load 3#80 5#80)).Inv ∧ (stateOf .warmup 0#11 (load 3#80 5#80)).regs.StatusInv ∧
    ∃ t, step ((stateOf .warmup 0#11 (load 3#80 5#80)).drive (encode .nop)) = .next t := by
  have h : (stateOf .warmup 0#11 (load 3#80 5#80)).regs.StatusInv :=
    ⟨by decide, by decide, by decide, by decide, by decide, by decide⟩
  exact ⟨⟨h, fun _ => ⟨3#80, 5#80, rfl⟩⟩, h, exec_cases _ _ |>.elim fun σ hσ => ⟨_, hσ⟩⟩

/-- RunAfterResetIsFunctionOfInputs: two states that differ in every register, with RST on the ports. -/
theorem witness_RunAfterResetIsFunctionOfInputs :
    ((stateOf .ready 0#11 l0).drive (encode .rst)).inputs = ((stateOf .warmup 7#11 0#288).drive (encode .rst)).inputs ∧
    ((stateOf .ready 0#11 l0).drive (encode .rst)).cycle = ((stateOf .warmup 7#11 0#288).drive (encode .rst)).cycle ∧
    ((stateOf .ready 0#11 l0).drive (encode .rst)).ports.rst_i = true ∧
    (stateOf .ready 0#11 l0).regs ≠ (stateOf .warmup 7#11 0#288).regs := by decide

/-- OnlyTheseWriteCipherState and FrameOfCommands: a command that changes `s`, and one that changes `cnt`. -/
theorem witness_writers :
    (regsAfter (exec (.wrstate 0#288) (stateOf .ready 0#11 l0))).s ≠ (stateOf .ready 0#11 l0).regs.s ∧
    (regsAfter (exec .nop (stateOf .warmup 0#11 l0))).cnt ≠ (stateOf .warmup 0#11 l0).regs.cnt := by decide

/-- RejectionIsNopPlusReport: a rejected command of each cause. -/
theorem witness_RejectionIsNopPlusReport :
    rejectCause (stateOf .warmup 3#11 l0).regs.phase (.wrstate 0#288) = some 0b01#2 ∧
    rejectCause (stateOf .idle 0#11 l0).regs.phase .step = some 0b10#2 := by decide

/-- ReportPerRejectedCommand: IDLE, and the first and last of two rejections. -/
theorem witness_ReportPerRejectedCommand :
    Regs.reset.phase = .idle ∧ (1 : Nat) ≤ 1 ∧ (1 : Nat) ≤ 2 ∧ (2 : Nat) ≤ 2 := by decide

/-- LastWarmupCycleRejects: a STEP in the last cycle of a warm-up. -/
theorem witness_LastWarmupCycleRejects :
    (stateOf .warmup 1151#11 l0).regs.phase = .warmup ∧ (stateOf .warmup 1151#11 l0).regs.cnt = 1151#11 ∧
    Instr.step ≠ .nop ∧ Instr.step ≠ .rst := by decide

/-- ResetValues: a state with the reset registers. -/
theorem witness_ResetValues : (State.reset.drive (encode .step)).regs = State.reset.regs := rfl

/-- HeldResetKeepsResetValues: two cycles of reset, after the first and after the last. -/
theorem witness_HeldResetKeepsResetValues :
    ({ stateOf .ready 0#11 l0 with inputs := [encode .rst, encode .rst] } : State).inputs =
      [encode .rst, encode .rst] ++ [] ∧
    (∀ p ∈ [encode .rst, encode .rst], p.rst_i = true) ∧ (1 : Nat) ≤ [encode .rst, encode .rst].length ∧
    (2 : Nat) ≤ [encode .rst, encode .rst].length := by decide

/-- BootSequenceYieldsKeystream: a state with the whole sequence on its ports. -/
theorem witness_BootSequenceYieldsKeystream :
    ∃ s : State, s.inputs =
      (Instr.rst :: .init 3#80 5#80 :: (List.replicate 1152 .nop ++ List.replicate 2 .step)).map encode ++ [] :=
  ⟨{ stateOf .ready 0#11 l0 with inputs := _ }, rfl⟩

/-- HexDigitsOfBitGroups and HexRoundTripLowercases: a text that is read, and a digit of its printing. -/
theorem witness_hex_texts :
    hexToBinary ['A'] = some [true, false, true, false] ∧ (binaryToHex [true, false, true])[0]? = some 'a' := by decide

/-- FormatErrorsIssueNoCommand: a key, an IV and a ciphertext malformed in turn. -/
theorem witness_FormatErrorsIssueNoCommand :
    ¬((['x'] : List Char).length = 20 ∧ (hexToBinary ['x']).isSome = true) ∧
    (zeros20.length = 20 ∧ (hexToBinary zeros20).isSome = true) ∧
    ¬((['9', '7', '6'] : List Char).length % 2 = 0 ∧ (hexToBinary ['9', '7', '6']).isSome = true) := by decide

/-- EmptyInput: a malformed key and a malformed IV. -/
theorem witness_malformed : ¬(∃ k, parseKey ['x'] = .ok k) ∧ ¬(∃ v, parseIv ['x'] = .ok v) := by
  have hk : parseKey ['x'] = .error .invalidKeyFormat := by decide
  have hv : parseIv ['x'] = .error .invalidIvFormat := by decide
  constructor
  · rintro ⟨k, h⟩
    rw [hk] at h
    cases h
  · rintro ⟨v, h⟩
    rw [hv] at h
    cases h

/-- EncryptionIsKeystreamSum, DecryptionIsKeystreamSum, EmptyInput and EmptySessionStillInitializes: a CORE in IDLE and one
in READY, a key, an IV and a ciphertext. -/
theorem witness_host_calls :
    Regs.reset.phase ≠ .warmup ∧ (regsOf .ready 0#11 l0).phase ≠ .warmup ∧
    (∃ k, parseKey zeros20 = .ok k) ∧ (∃ v, parseIv zeros20 = .ok v) ∧
    hexToBinary ['9', '7'] = some [true, false, false, true, false, true, true, true] ∧
    (['9', '7'] : List Char).length % 2 = 0 :=
  ⟨by decide, by decide, ⟨_, witness_key_texts.1⟩, ⟨_, witness_key_texts.2⟩, by decide, by decide⟩

/-- SessionsAreIsolated: a CORE in IDLE and one in READY, the first as it is, as a failed encryption left it and as a
decryption left it, and inputs that reach every clause. -/
theorem witness_SessionsAreIsolated :
    Regs.reset.phase ≠ .warmup ∧ (regsOf .ready 0#11 l0).phase ≠ .warmup ∧
    (∃ ρ, ρ = (encryptOn Regs.reset [0x48#8] ['x'] zeros20).2) ∧
    (∃ ρ, ρ = (decryptOn Regs.reset ['9', '7'] zeros20 zeros20).2) ∧
    (∃ k, parseKey zeros20 = .ok k) ∧ (∃ v, parseIv zeros20 = .ok v) ∧ ([0x48#8] : List Byte) ≠ [] ∧
    (['9', '7'] : List Char) ≠ [] ∧ ∃ c, parseCiphertext ['9', '7'] = .ok c :=
  ⟨by decide, by decide, ⟨_, rfl⟩, ⟨_, rfl⟩, ⟨_, witness_key_texts.1⟩, ⟨_, witness_key_texts.2⟩, by decide, by decide,
    ⟨_, rfl⟩⟩

/-- DecryptInvertsEncrypt: the encryption of no bytes under zero key and IV is a ciphertext. -/
theorem witness_DecryptInvertsEncrypt : ∃ c, encryptTrivium [0x48#8] zeros20 zeros20 = .ok c := ⟨_, rfl⟩

/-- ReissuedStepGetsItsBit: the first and the last cycle of a warm-up, and one try too few. -/
theorem witness_ReissuedStepGetsItsBit :
    (regsOf .warmup 0#11 l0).phase = .warmup ∧ (regsOf .warmup 0#11 l0).cnt.toNat ≤ 1151 ∧
    (regsOf .warmup 1151#11 l0).cnt.toNat ≤ 1151 ∧ 1 ≤ 1152 - (regsOf .warmup 1151#11 l0).cnt.toNat := by decide

end Sys2Proof.Tests
end

section
/-! The state of the CORE: the report and keystream registers after each command, the outputs, the reset values. -/

namespace Sys2Proof.Machine

/-! ### A cycle of the warm-up, register by register (R123, R221) -/

@[simp] theorem warmupCycle_ks_bit (σ : Regs) : (warmupCycle σ).ks_bit = σ.ks_bit := by
  simp [warmupCycle, warmupArm_fields]

@[simp] theorem warmupCycle_ks_valid (σ : Regs) : (warmupCycle σ).ks_valid = false := by
  simp [warmupCycle, warmupArm_fields]

@[simp] theorem warmupCycle_rej (σ : Regs) : (warmupCycle σ).rej = false := by
  simp [warmupCycle, warmupArm_fields]

@[simp] theorem warmupCycle_rej_cause (σ : Regs) : (warmupCycle σ).rej_cause = 0b00#2 := by
  simp [warmupCycle, warmupArm_fields]

theorem busyCycle_eq (σ : Regs) : busyCycle σ = (warmupCycle σ).reject causeBusy := rfl

/-! ### RST, and STEP in each phase that is not WARMUP (R140, R141, R162) -/

theorem phase_eq_ready {p : Phase} (hw : p ≠ .warmup) (hi : p ≠ .idle) : p = .ready := by
  cases p <;> simp_all

theorem exec_rst (s : State) : exec .rst s = .next (s.withRegs Regs.reset) := rfl

theorem exec_step_of_ready {s : State} (h : s.regs.phase = .ready) :
    exec .step s = .next (s.withRegs (stepArm s.regs s.regs.defaults)) := by
  simp [exec, execStep, h]

theorem exec_step_of_idle {s : State} (h : s.regs.phase = .idle) :
    exec .step s = .next (s.withRegs (s.regs.defaults.reject causeNotReady)) := by
  simp [exec, execStep, h]

/-! ### The acceptance matrix (R164) -/

theorem rejectCause_isSome_iff (p : Phase) (i : Instr) :
    (rejectCause p i).isSome = true ↔ (p = .warmup ∧ i ≠ .nop ∧ i ≠ .rst) ∨ (p = .idle ∧ i = .step) := by
  cases p <;> cases i <;> simp [rejectCause]

theorem rejectCause_eq_some_iff (p : Phase) (i : Instr) (c : BitVec 2) :
    rejectCause p i = some c ↔
      (p = .warmup ∧ i ≠ .nop ∧ i ≠ .rst ∧ c = causeBusy) ∨
      (p = .idle ∧ i = .step ∧ c = causeNotReady) := by
  cases p <;> cases i <;> simp [rejectCause, eq_comm]

theorem rejectCause_warmup {i : Instr} (h : (rejectCause .warmup i).isSome = true) :
    rejectCause .warmup i = some causeBusy := by
  simpa [rejectCause_eq_some_iff, rejectCause_isSome_iff] using h

theorem rejectCause_idle {i : Instr} (h : (rejectCause .idle i).isSome = true) :
    rejectCause .idle i = some causeNotReady := by
  simpa [rejectCause_eq_some_iff, rejectCause_isSome_iff] using h

/-- A command the matrix rejects leaves the registers NOP leaves in the same cycle, with the report on top (R220). -/
theorem exec_of_rejected {i : Instr} {s : State} {c : BitVec 2} (h : rejectCause s.regs.phase i = some c) :
    ∃ σ, exec .nop s = .next (s.withRegs σ) ∧ exec i s = .next (s.withRegs (σ.reject c)) := by
  obtain ⟨hp, hnop, hrst, rfl⟩ | ⟨hp, rfl, rfl⟩ := (rejectCause_eq_some_iff _ _ _).mp h
  · refine ⟨warmupCycle s.regs, by simp [exec_in_warmup hp], ?_⟩
    simp [exec_in_warmup hp hrst, hnop, busyCycle_eq]
  · exact ⟨s.regs.defaults, exec_nop_of_ne (by simp [hp]), exec_step_of_idle hp⟩

/-- A command the matrix accepts leaves no report (R223). -/
theorem exec_of_accepted {i : Instr} {s : State} (h : rejectCause s.regs.phase i = none) :
    ∃ σ, exec i s = .next (s.withRegs σ) ∧ σ.rej = false ∧ σ.rej_cause = causeNone := by
  by_cases hp : s.regs.phase = .warmup
  · cases i with
    | nop => exact ⟨_, exec_in_warmup hp (by simp), by simp [causeNone]⟩
    | rst => exact ⟨_, exec_rst s, rfl, rfl⟩
    | init | step | wrstate => simp [hp, rejectCause] at h
  · cases i with
    | nop => exact ⟨_, exec_nop_of_ne hp, rfl, rfl⟩
    | init key iv => exact ⟨_, exec_init_of_ne hp key iv, rfl, rfl⟩
    | wrstate x => exact ⟨_, exec_wrstate_of_ne hp x, rfl, rfl⟩
    | rst => exact ⟨_, exec_rst s, rfl, rfl⟩
    | step =>
      have hidle : s.regs.phase ≠ .idle := fun hidle => by simp [hidle, rejectCause] at h
      exact ⟨_, exec_step_of_ready (phase_eq_ready hp hidle), rfl, rfl⟩

/-- The report of every command in every phase is what the acceptance matrix says (R42, R164). -/
theorem exec_report (i : Instr) (s : State) :
    ∃ σ, exec i s = .next (s.withRegs σ) ∧ σ.rej = (rejectCause s.regs.phase i).isSome ∧
      σ.rej_cause = (rejectCause s.regs.phase i).getD causeNone := by
  cases h : rejectCause s.regs.phase i with
  | none => exact exec_of_accepted h
  | some c =>
    obtain ⟨σ, -, hσ⟩ := exec_of_rejected h
    exact ⟨σ.reject c, hσ, rfl, rfl⟩

/-! ### The keystream registers (R40, R41) -/

/-- A cycle of the warm-up keeps `ks_bit` and clears `ks_valid`, whatever command but RST it presents (R123). -/
theorem exec_in_warmup_keystream {i : Instr} {s : State} (h : s.regs.phase = .warmup) (hi : i ≠ .rst) :
    ∃ σ, exec i s = .next (s.withRegs σ) ∧ σ.ks_bit = s.regs.ks_bit ∧ σ.ks_valid = false := by
  refine ⟨_, exec_in_warmup h hi, ?_⟩
  by_cases hnop : i = .nop <;> simp [hnop, busyCycle_eq]

/-! ### The outputs (R43, R65) -/

/-- Element k of a sequence is bit `w - 1 - k` of the port that carries it (R65). -/
theorem getLsbD_portOf {w : Nat} (x : BitVec w) {k : Nat} (h : k < w) :
    (portOf x).getLsbD (w - 1 - k) = bitAt x k :=
  (bitAt_eq_getLsbD x h).symm

@[simp] theorem busy_iff (σ : Regs) : σ.busy = true ↔ σ.phase = .warmup := decide_eq_true_iff

@[simp] theorem ready_iff (σ : Regs) : σ.ready = true ↔ σ.phase = .ready := decide_eq_true_iff

theorem not_busy_and_ready (σ : Regs) : ¬(σ.busy = true ∧ σ.ready = true) := by
  rintro ⟨hbusy, hready⟩
  rw [busy_iff] at hbusy
  rw [ready_iff, hbusy] at hready
  contradiction

theorem status_of_idle {σ : Regs} (h : σ.phase = .idle) : σ.busy = false ∧ σ.ready = false := by
  simp [Regs.busy, Regs.ready, h]

end Sys2Proof.Machine

namespace Sys2Proof.Proofs

open Sys2Proof.Machine

/-- Settles O34: the report registers are the acceptance matrix's entry, and the matrix rejects in these two cases. -/
theorem rejectReportFollowsMatrix : Obligations.RejectReportFollowsMatrix := by
  intro i s
  obtain ⟨σ, hexec, hrej, hcause⟩ := exec_report i s
  refine ⟨s.withRegs σ, hexec, ?_⟩
  simp only [withRegs_regs, hrej, hcause]
  refine ⟨rejectCause_isSome_iff _ _, fun h hp => ?busy, fun h hp => ?notReady, fun h => ?none, trivial⟩
  case busy =>
    rw [hp] at h ⊢
    rw [rejectCause_warmup h]
    rfl
  case notReady =>
    rw [hp] at h ⊢
    rw [rejectCause_idle h]
    rfl
  case none =>
    rw [Option.isSome_eq_false_iff, Option.isNone_iff_eq_none] at h
    rw [h]
    rfl

/-- Settles O41, command by command outside WARMUP; in WARMUP every command but RST keeps `ks_bit`. -/
theorem keystreamRegistersFollowStep : Obligations.KeystreamRegistersFollowStep := by
  intro i s
  by_cases hrst : i = .rst
  · exact ⟨_, hrst ▸ exec_rst s, by simp [hrst, Regs.reset]⟩
  by_cases hp : s.regs.phase = .warmup
  · obtain ⟨σ, hexec, hbit, hvalid⟩ := exec_in_warmup_keystream hp hrst
    exact ⟨_, hexec, by simp [hp, hrst, hbit, hvalid]⟩
  cases i with
  | rst => exact absurd rfl hrst
  | nop => exact ⟨_, exec_nop_of_ne hp, by simp⟩
  | init key iv => exact ⟨_, exec_init_of_ne hp key iv, by simp [hp]⟩
  | wrstate x => exact ⟨_, exec_wrstate_of_ne hp x, by simp [hp]⟩
  | step =>
    by_cases hidle : s.regs.phase = .idle
    · exact ⟨_, exec_step_of_idle hidle, by simp [hidle]⟩
    · have hready := phase_eq_ready hp hidle
      exact ⟨_, exec_step_of_ready hready, by simp [hready]⟩

/-- Settles O42: each output is read off its register, and driving the ports of a cycle leaves the registers. -/
theorem outputsShowRegisters : Obligations.OutputsShowRegisters := by
  refine ⟨fun σ => ?_, fun s p => congrArg outputs (drive_regs s p)⟩
  exact ⟨fun k hk => getLsbD_portOf σ.s (by omega), rfl, rfl, busy_iff σ, ready_iff σ, rfl, rfl, status_of_idle,
    not_busy_and_ready σ⟩

/-- Settles O46: STEP in IDLE is rejected, and the defaults are what the reset registers hold already. -/
theorem resetValues : Obligations.ResetValues := by
  refine ⟨rfl, fun s hs => ?_⟩
  have hidle : s.regs.phase = .idle := by rw [hs]; rfl
  have hdefaults : s.regs.defaults = s.regs := by rw [hs]; rfl
  rw [exec_step_of_idle hidle, hdefaults]
  rfl

end Sys2Proof.Proofs
end

section
/-! Bit order: what each port carries, and the hex digits and bytes of bit lists, the most significant bit first. -/

namespace Sys2Proof.Machine

/-! ### Sequences and bit lists (R65) -/

/-- Element k of the sequence a port carries is bit `w - 1 - k` of the port (R65). -/
theorem bitAt_bitseq {w : Nat} (p : BitVec w) {k : Nat} (h : k < w) : bitAt (bitseq p) k = p.getLsbD (w - 1 - k) :=
  bitAt_eq_getLsbD p h

theorem bitAt_eq_testBit {w : Nat} (x : BitVec w) {k : Nat} (h : k < w) : bitAt x k = x.toNat.testBit (w - 1 - k) :=
  bitAt_eq_getLsbD x h

theorem bitsOfSeq_getElem? {w : Nat} (x : BitVec w) {k : Nat} (h : k < w) : (bitsOfSeq x)[k]? = some (bitAt x k) := by
  simp [bitsOfSeq, h]

theorem bitsOfSeq_seqOfBits {n : Nat} {bs : List Bit} (h : bs.length = n) : bitsOfSeq (seqOfBits n bs) = bs := by
  refine List.ext_getElem? fun k => ?_
  by_cases hk : k < n
  · rw [bitsOfSeq_getElem? _ hk, bitAt_seqOfBits _ _ _ hk, List.getElem?_eq_getElem (h ▸ hk), Option.getD_some]
  · rw [List.getElem?_eq_none (by simpa using hk), List.getElem?_eq_none (by omega)]

/-! The hex and byte conversions both put a digit's or byte's bits in front of the bits of the rest: an index falls in
the first group, or past it. -/

theorem bitsOfSeq_append_getElem? {w : Nat} (x : BitVec w) (rest : List Bit) {k : Nat} (h : k < w) :
    (bitsOfSeq x ++ rest)[k]? = some (x.toNat.testBit (w - 1 - k)) := by
  rw [List.getElem?_append_left (by simpa using h), bitsOfSeq_getElem? x h, bitAt_eq_testBit x h]

theorem bitsOfSeq_append_getElem?_add {w : Nat} (x : BitVec w) (rest : List Bit) (k : Nat) :
    (bitsOfSeq x ++ rest)[w + k]? = rest[k]? := by
  rw [List.getElem?_append_right (by simp)]
  simp

/-! ### Hex text (R63) -/

theorem hexToBinary_length {text : List Char} {bs : List Bit} (h : hexToBinary text = some bs) :
    bs.length = 4 * text.length := by
  induction text generalizing bs with
  | nil =>
    obtain rfl : [] = bs := by simpa [hexToBinary] using h
    rfl
  | cons c cs ih =>
    obtain ⟨v, b, -, hb, rfl⟩ := hexToBinary_cons h
    simp only [List.length_append, bitsOfSeq_length, List.length_cons, ih hb]
    omega

theorem hexToBinary_getElem? {text : List Char} {bs : List Bit} (h : hexToBinary text = some bs) {j m : Nat} {c : Char}
    {v : BitVec 4} (hm : m ≤ 3) (hc : text[j]? = some c) (hv : hexValue c = some v) :
    bs[4 * j + m]? = some (v.toNat.testBit (3 - m)) := by
  induction text generalizing bs j with
  | nil => simp at hc
  | cons d ds ih =>
    obtain ⟨u, b, hu, hb, rfl⟩ := hexToBinary_cons h
    cases j with
    | zero =>
      obtain rfl : d = c := by simpa using hc
      obtain rfl : u = v := by simpa [hu] using hv
      simpa using bitsOfSeq_append_getElem? u b (show m < 4 by omega)
    | succ j =>
      rw [show 4 * (j + 1) + m = 4 + (4 * j + m) by omega, bitsOfSeq_append_getElem?_add]
      exact ih hb (by simpa using hc)

theorem hexToBinary_hexDigit_cons (v : BitVec 4) {cs : List Char} {bs : List Bit} (h : hexToBinary cs = some bs) :
    hexToBinary (hexDigit v :: cs) = some (bitsOfSeq v ++ bs) := by
  simp [hexToBinary, hexValue_hexDigit, h]

/-- The hex text of whole digits is read as the bits it was made of. -/
theorem hexToBinary_binaryToHex {bs : List Bit} (h : 4 ∣ bs.length) : hexToBinary (binaryToHex bs) = some bs := by
  induction bs using binaryToHex.induct with
  | case1 a b c d rest ih =>
    have hrest : 4 ∣ rest.length := by simpa [add_assoc] using h
    rw [binaryToHex, hexToBinary_hexDigit_cons _ (ih hrest), bitsOfSeq_seqOfBits (n := 4) rfl]
    rfl
  | case2 => rfl
  | case3 short hlong hne =>
    match short with
    | [] => exact absurd rfl hne
    | [_] | [_, _] | [_, _, _] => simp at h
    | a :: b :: c :: d :: rest => exact absurd rfl (hlong a b c d rest)

theorem hexToBinary_hexText {w : Nat} (p : BitVec w) (h : 4 ∣ w) : hexToBinary (hexText p) = some (bitsOfSeq p) :=
  hexToBinary_binaryToHex (by simpa [bitseq] using h)

/-- The hex text of a port of whole digits has one digit for each four bits of the port. -/
theorem hexText_length {w : Nat} (p : BitVec w) (h : 4 ∣ w) : (hexText p).length = w / 4 := by
  have hlen := hexToBinary_length (hexToBinary_hexText p h)
  rw [bitsOfSeq_length] at hlen
  omega

theorem parse80_hexText (e : HostError) (p : BitVec 80) : parse80 e (hexText p) = .ok (bitseq p) := by
  simp [parse80, hexToBinary_hexText p (by decide), hexText_length p (by decide), seqOfBits_bitsOfSeq, bitseq]

/-! ### Bytes (R64) -/

theorem bitsOfBytes_length (p : List Byte) : (bitsOfBytes p).length = 8 * p.length := by
  induction p with
  | nil => rfl
  | cons x xs ih =>
    simp only [bitsOfBytes, List.length_append, bitsOfSeq_length, List.length_cons, ih]
    omega

theorem bitsOfBytes_getElem? {p : List Byte} {i m : Nat} {b : Byte} (hm : m ≤ 7) (hb : p[i]? = some b) :
    (bitsOfBytes p)[8 * i + m]? = some (b.toNat.testBit (7 - m)) := by
  induction p generalizing i with
  | nil => simp at hb
  | cons x xs ih =>
    rw [bitsOfBytes]
    cases i with
    | zero =>
      obtain rfl : x = b := by simpa using hb
      simpa using bitsOfSeq_append_getElem? x (bitsOfBytes xs) (show m < 8 by omega)
    | succ i =>
      rw [show 8 * (i + 1) + m = 8 + (8 * i + m) by omega, bitsOfSeq_append_getElem?_add]
      exact ih (by simpa using hb)

/-- Eight bits in front of a bit list are its first byte. -/
theorem bytesOfBits_bitsOfSeq_append (x : Byte) (rest : List Bit) :
    bytesOfBits (bitsOfSeq x ++ rest) = x :: bytesOfBits rest :=
  congrArg (· :: bytesOfBits rest) (seqOfBits_bitsOfSeq x)

theorem bytesOfBits_bitsOfBytes (p : List Byte) : bytesOfBits (bitsOfBytes p) = p := by
  induction p with
  | nil => rfl
  | cons x xs ih => rw [bitsOfBytes, bytesOfBits_bitsOfSeq_append, ih]

end Sys2Proof.Machine

namespace Sys2Proof.Proofs

open Sys2Proof.Machine

/-- Settles O7: each operand is the sequence of its port bit by bit, and the hex text of a port is read back as it. -/
theorem portBitOrder : Obligations.PortBitOrder := by
  refine ⟨fun key_i k hk => ?key, fun iv_i k hk => ?iv, fun state_i k hk => ?state, fun σ k hk => ?out,
    parse80_hexText _, parse80_hexText _, fun _ => rfl⟩
  case key => exact bitAt_bitseq key_i (by omega)
  case iv => exact bitAt_bitseq iv_i (by omega)
  case state => exact bitAt_bitseq state_i (by omega)
  case out => exact getLsbD_portOf σ.s (by omega)

/-- Settles O8, by induction on the text: the first digit's four bits stand before the bits of the rest. -/
theorem hexDigitBitOrder : Obligations.HexDigitBitOrder :=
  fun _ _ h => ⟨hexToBinary_length h, fun _ _ _ _ hm hc hv => hexToBinary_getElem? h hm hc hv⟩

/-- Settles O9, by induction on the bytes: the first byte's eight bits stand before the bits of the rest. -/
theorem byteBitOrder : Obligations.ByteBitOrder :=
  fun p => ⟨bitsOfBytes_length p, fun _ _ _ hm hb => bitsOfBytes_getElem? hm hb, bytesOfBits_bitsOfBytes p⟩

end Sys2Proof.Proofs
end

section
/-! The encoding: the ports of each command, and which ports a command reads. -/

namespace Sys2Proof

/-! ### The decoder, command by command (R81) -/

theorem decode_of_rst {p : Ports} (hr : p.rst_i = true) : decode p = .rst := by
  simp [decode, hr]

theorem decode_of_nop {p : Ports} (hr : p.rst_i = false) (hc : p.cmd_i = 0b00#2) : decode p = .nop := by
  simp [decode, hr, hc]

theorem decode_of_init {p : Ports} (hr : p.rst_i = false) (hc : p.cmd_i = 0b01#2) :
    decode p = .init p.key_i p.iv_i := by
  simp [decode, hr, hc]

theorem decode_of_step {p : Ports} (hr : p.rst_i = false) (hc : p.cmd_i = 0b10#2) : decode p = .step := by
  simp [decode, hr, hc]

theorem decode_of_wrstate {p : Ports} (hr : p.rst_i = false) (hc : p.cmd_i = 0b11#2) :
    decode p = .wrstate p.state_i := by
  simp [decode, hr, hc]

theorem cmd_cases (c : BitVec 2) : c = 0b00#2 ∨ c = 0b01#2 ∨ c = 0b10#2 ∨ c = 0b11#2 := by
  revert c; decide

/-! ### The encoder (R80, R88) -/

/-- Ports that carry a command word have it as their command word (R80). -/
@[simp] theorem portsOf_cw (cw : BitVec 3) (key iv : BitVec 80) (state : BitVec 288) :
    (portsOf cw key iv state).cw = cw := by
  change BitVec.cons (cw.getLsbD 2) (cw.extractLsb' 0 2) = cw
  revert cw; decide

/-- The ports of a command's trace line decode to that command (R88). -/
theorem decode_encode (i : Instr) : decode (encode i) = i := by
  cases i with
  | nop => exact decode_of_nop rfl rfl
  | init key iv => exact decode_of_init rfl rfl
  | step => exact decode_of_step rfl rfl
  | wrstate state => exact decode_of_wrstate rfl rfl
  | rst => exact decode_of_rst rfl

end Sys2Proof

namespace Sys2Proof.Machine

/-! ### What a cycle reads of its ports (R83) -/

/-- The ports of a cycle enter its step through the decoded command only (R49). -/
theorem step_drive (s : State) (p : Ports) : step (s.drive p) = exec (decode p) s.advance := rfl

/-- INIT reads its operands only where it is accepted. -/
theorem exec_init_congr {s : State} {k k' v v' : BitVec 80} (h : s.regs.phase ≠ .warmup → k = k' ∧ v = v') :
    exec (.init k v) s = exec (.init k' v') s := by
  by_cases hp : s.regs.phase = .warmup
  · simp [exec_in_warmup hp]
  · obtain ⟨rfl, rfl⟩ := h hp
    rfl

/-- WRSTATE reads its operand only where it is accepted. -/
theorem exec_wrstate_congr {s : State} {x x' : BitVec 288} (h : s.regs.phase ≠ .warmup → x = x') :
    exec (.wrstate x) s = exec (.wrstate x') s := by
  by_cases hp : s.regs.phase = .warmup
  · simp [exec_in_warmup hp]
  · rw [h hp]

end Sys2Proof.Machine

namespace Sys2Proof.Proofs

open Sys2Proof.Machine

/-- Settles O5, command by command: the ports enter the step through the decoded command, and the operands of a
rejected INIT or WRSTATE are not read. -/
theorem unreadPortsHaveNoEffect : Obligations.UnreadPortsHaveNoEffect := by
  intro s p q hrst hcmd hinit hwr
  rw [step_drive, step_drive]
  cases hr : p.rst_i with
  | true => rw [decode_of_rst hr, decode_of_rst (hrst ▸ hr)]
  | false =>
    have hr' : q.rst_i = false := hrst ▸ hr
    have hc' : q.cmd_i = p.cmd_i := (hcmd hr).symm
    obtain hc | hc | hc | hc := cmd_cases p.cmd_i
    · rw [decode_of_nop hr hc, decode_of_nop hr' (hc'.trans hc)]
    · rw [decode_of_init hr hc, decode_of_init hr' (hc'.trans hc)]
      exact exec_init_congr (hinit hr hc)
    · rw [decode_of_step hr hc, decode_of_step hr' (hc'.trans hc)]
    · rw [decode_of_wrstate hr hc, decode_of_wrstate hr' (hc'.trans hc)]
      exact exec_wrstate_congr (hwr hr hc)

/-- Settles O1: one clause of the decoder for each command. -/
theorem portsSelectCommand : Obligations.PortsSelectCommand :=
  fun _ => ⟨decode_of_rst, decode_of_nop, decode_of_init, decode_of_step, decode_of_wrstate⟩

/-- Settles O3: the encoder puts the command word and the operands on their ports, and the decoder reads them back. -/
theorem encodingRoundTrip : Obligations.EncodingRoundTrip :=
  ⟨portsOf_cw .., fun _ _ => ⟨portsOf_cw .., rfl, rfl⟩, portsOf_cw .., fun _ => ⟨portsOf_cw .., rfl⟩, rfl,
    fun i _ => decode_encode i⟩

end Sys2Proof.Proofs
end

section
/-! The state updater: the registers and bits of the next state, the inverse update, and the all-zero state. -/

namespace Sys2Proof.Machine

/-! ### The registers of a state (R32) -/

/-- Element k of three registers put together, in the register it falls in. -/
theorem bitAt_registers (a : BitVec 93) (b : BitVec 84) (c : BitVec 111) (k : Nat) :
    bitAt (a ++ b ++ c : CipherState) k =
      if k < 93 then bitAt a k else if k < 177 then bitAt b (k - 93) else bitAt c (k - 177) := by
  refine (bitAt_append (a ++ b) c k).trans ?_
  rw [bitAt_append]
  by_cases hA : k < 93
  · rw [if_pos (by omega)]
    simp only [if_pos hA]
  · simp only [if_neg hA]

theorem regA_append (a : BitVec 93) (b : BitVec 84) (c : BitVec 111) : regA (a ++ b ++ c) = a :=
  seq_ext fun k hk => by rw [regA, bitAt_slice _ _ _ _ (by decide) hk, Nat.zero_add, bitAt_registers, if_pos hk]

theorem regB_append (a : BitVec 93) (b : BitVec 84) (c : BitVec 111) : regB (a ++ b ++ c) = b :=
  seq_ext fun k hk => by
    rw [regB, bitAt_slice _ _ _ _ (by decide) hk, bitAt_registers, if_neg (by omega), if_pos (by omega),
      Nat.add_sub_cancel_left]

theorem regC_append (a : BitVec 93) (b : BitVec 84) (c : BitVec 111) : regC (a ++ b ++ c) = c :=
  seq_ext fun k hk => by
    rw [regC, bitAt_slice _ _ _ _ (by decide) hk, bitAt_registers, if_neg (by omega), if_neg (by omega),
      Nat.add_sub_cancel_left]

/-! ### The next state (R105, R107) -/

/-- Position k of a register that starts at position a, drops its last bit and takes `v` in front. -/
theorem bitAt_shiftIn (v : Bit) {w : Nat} (s : BitVec w) (a n : Nat) {k : Nat} (hw : a + (n + 1) ≤ w) (ha : a ≤ k)
    (hk : k < a + (n + 1)) :
    bitAt (BitVec.cons v (slice (slice s a (n + 1)) 0 n)) (k - a) = if k = a then v else bitAt s (k - 1) := by
  rw [bitAt_cons]
  by_cases h : k = a
  · rw [if_pos h, if_pos (by omega)]
  · rw [if_neg h, if_neg (by omega), bitAt_slice _ _ _ _ (by omega) (by omega), bitAt_slice _ _ _ _ hw (by omega)]
    congr 1; omega

/-- Every bit of the next state: in each register the feedback bit stands in front of the shifted bits (R105). -/
theorem bitAt_upd (s : CipherState) {k : Nat} (h : k < 288) :
    bitAt (upd s).1 k =
      if k = 0 then feedback3 s else if k = 93 then feedback1 s else if k = 177 then feedback2 s
      else bitAt s (k - 1) := by
  refine (bitAt_registers _ _ _ k).trans ?_
  by_cases hA : k < 93
  · rw [if_pos hA, if_neg (by omega : k ≠ 93), if_neg (by omega : k ≠ 177)]
    exact bitAt_shiftIn _ s 0 92 (by decide) (by omega) (by omega)
  · rw [if_neg hA, if_neg (by omega : k ≠ 0)]
    by_cases hB : k < 177
    · rw [if_pos hB, if_neg (by omega : k ≠ 177)]
      exact bitAt_shiftIn _ s 93 83 (by decide) (by omega) hB
    · rw [if_neg hB, if_neg (by omega : k ≠ 93)]
      exact bitAt_shiftIn _ s 177 110 (by decide) (by omega) h

theorem bitAt_upd_of_shifted (s : CipherState) {k : Nat}
    (h : 1 ≤ k ∧ k ≤ 92 ∨ 94 ≤ k ∧ k ≤ 176 ∨ 178 ≤ k ∧ k ≤ 287) : bitAt (upd s).1 k = bitAt s (k - 1) := by
  rw [bitAt_upd s (by omega), if_neg (by omega), if_neg (by omega), if_neg (by omega)]

/-! ### The dropped bits and the inverse update (R109) -/

/-- A feedback bit gives back the dropped tap `b` when its other terms are added again. -/
theorem feedback_xor_cancel (a b c d : Bit) : ((((a ^^ b) ^^ c ^^ d) ^^ a) ^^ c ^^ d) = b := by
  revert a b c d; decide

theorem bitAt_92_of_upd (s : CipherState) :
    bitAt s 92 = (bitAt (upd s).1 93 ^^ bitAt s 65 ^^ (bitAt s 90 && bitAt s 91) ^^ bitAt s 170) := by
  rw [bitAt_upd s (k := 93) (by decide)]
  exact (feedback_xor_cancel ..).symm

theorem bitAt_176_of_upd (s : CipherState) :
    bitAt s 176 = (bitAt (upd s).1 177 ^^ bitAt s 161 ^^ (bitAt s 174 && bitAt s 175) ^^ bitAt s 263) := by
  rw [bitAt_upd s (k := 177) (by decide)]
  exact (feedback_xor_cancel ..).symm

theorem bitAt_287_of_upd (s : CipherState) :
    bitAt s 287 = (bitAt (upd s).1 0 ^^ bitAt s 242 ^^ (bitAt s 285 && bitAt s 286) ^^ bitAt s 68) := by
  rw [bitAt_upd s (k := 0) (by decide)]
  exact (feedback_xor_cancel ..).symm

/-- Position k of a register that starts at position a, drops its first bit and takes `v` at its end. -/
theorem bitAt_shiftOut (v : Bit) {w : Nat} (n : BitVec w) (a m : Nat) {k : Nat} (hw : a + (m + 1) ≤ w) (ha : a ≤ k)
    (hk : k < a + (m + 1)) :
    bitAt (slice n (a + 1) m ++ BitVec.ofBool v) (k - a) = if k = a + m then v else bitAt n (k + 1) := by
  rw [bitAt_append]
  by_cases h : k = a + m
  · subst h
    simp [bitAt]
  · rw [if_neg h, if_pos (by omega), bitAt_slice _ _ _ _ (by omega) (by omega)]
    congr 1; omega

/-- Every bit of the state before: all but the last of each register come back one position, and the last three are
added up from the feedback bit and the shifted taps (R109). -/
theorem bitAt_updInverse (n : CipherState) {k : Nat} (h : k < 288) :
    bitAt (updInverse n) k =
      if k = 92 then bitAt n 93 ^^ bitAt n 66 ^^ (bitAt n 91 && bitAt n 92) ^^ bitAt n 171
      else if k = 176 then bitAt n 177 ^^ bitAt n 162 ^^ (bitAt n 175 && bitAt n 176) ^^ bitAt n 264
      else if k = 287 then bitAt n 0 ^^ bitAt n 243 ^^ (bitAt n 286 && bitAt n 287) ^^ bitAt n 69
      else bitAt n (k + 1) := by
  have tapA {j : Nat} (hj : j < 92) := bitAt_slice n 1 92 j (by decide) hj
  have tapB {j : Nat} (hj : j < 83) := bitAt_slice n 94 83 j (by decide) hj
  have tapC {j : Nat} (hj : j < 110) := bitAt_slice n 178 110 j (by decide) hj
  simp only [updInverse, tapA, tapB, tapC, Nat.reduceLT, Nat.reduceAdd]
  refine (bitAt_registers _ _ _ k).trans ?_
  by_cases hA : k < 93
  · rw [if_pos hA, if_neg (by omega : k ≠ 176), if_neg (by omega : k ≠ 287)]
    exact bitAt_shiftOut _ n 0 92 (by decide) (by omega) (by omega)
  · rw [if_neg hA, if_neg (by omega : k ≠ 92)]
    by_cases hB : k < 177
    · rw [if_pos hB, if_neg (by omega : k ≠ 287)]
      exact bitAt_shiftOut _ n 93 83 (by decide) (by omega) hB
    · rw [if_neg hB, if_neg (by omega : k ≠ 176)]
      exact bitAt_shiftOut _ n 177 110 (by decide) (by omega) h

/-- The inverse undoes the update: the shifted bits come back, and the rule's equations give the three dropped ones. -/
theorem updInverse_upd (s : CipherState) : updInverse (upd s).1 = s := by
  refine seq_ext fun k hk => ?_
  rw [bitAt_updInverse _ hk]
  split_ifs with hA hB hC
  · subst hA; simpa [bitAt_upd_of_shifted] using (bitAt_92_of_upd s).symm
  · subst hB; simpa [bitAt_upd_of_shifted] using (bitAt_176_of_upd s).symm
  · subst hC; simpa [bitAt_upd_of_shifted] using (bitAt_287_of_upd s).symm
  · exact bitAt_upd_of_shifted s (by omega)

/-- Injective by its inverse, so surjective: there are finitely many states. -/
theorem upd_bijective : Function.Bijective fun s : CipherState => (upd s).1 :=
  have : Finite CipherState := .of_injective _ BitVec.toFin_injective
  Finite.injective_iff_bijective.1 (Function.LeftInverse.injective updInverse_upd)

theorem upd_updInverse (n : CipherState) : (upd (updInverse n)).1 = n :=
  Function.LeftInverse.rightInverse_of_surjective updInverse_upd upd_bijective.surjective n

/-! ### The all-zero state (R110) -/

theorem upd_zero : upd 0#288 = (0#288, false) := by
  refine Prod.ext (seq_ext fun k hk => ?_) ?_
  · rw [bitAt_upd _ hk]
    simp [feedback1, feedback2, feedback3, t1, t2, t3]
  · simp [upd, keystreamBit, t1, t2, t3]

/-- The update is injective, so only `0^288` updates to `0^288`. -/
theorem eq_zero_of_upd_eq_zero {s : CipherState} (h : (upd s).1 = 0#288) : s = 0#288 :=
  upd_bijective.injective (h.trans (congrArg Prod.fst upd_zero).symm)

theorem updIter_ne_zero (j : Nat) {s : CipherState} (h : s ≠ 0#288) : updIter j s ≠ 0#288 := by
  induction j generalizing s with
  | zero => exact h
  | succ j ih => exact ih (mt eq_zero_of_upd_eq_zero h)

end Sys2Proof.Machine

namespace Sys2Proof.Proofs

open Sys2Proof.Machine

/-- Settles O11: the feedback bits of `bitAt_upd`, written out in their taps. -/
theorem updateNextStateBits : Obligations.UpdateNextStateBits :=
  fun s _ hk => bitAt_upd s (Nat.lt_succ_of_le hk)

/-- Settles O12: the next state is its three registers put together. -/
theorem updateRegisterForm : Obligations.UpdateRegisterForm :=
  fun _ => ⟨regA_append .., regB_append .., regC_append ..⟩

/-- Settles O13: `updInverse` undoes the update bit by bit by the recovery equations, and the states are finitely many. -/
theorem updateIsBijection : Obligations.UpdateIsBijection :=
  ⟨upd_bijective, fun s => ⟨updInverse_upd s, upd_updInverse s⟩,
    fun s => ⟨fun _ hk => (bitAt_upd_of_shifted s hk).symm, bitAt_92_of_upd s, bitAt_176_of_upd s, bitAt_287_of_upd s⟩⟩

/-- Settles O14: `0^288` has no other preimage, and by induction no number of updates reaches it from another state. -/
theorem zeroStateIsIsolatedFixedPoint : Obligations.ZeroStateIsIsolatedFixedPoint :=
  ⟨upd_zero, fun _ => eq_zero_of_upd_eq_zero, fun j _ => updIter_ne_zero j⟩

/-- Settles O10: the three linear tap sums of `keystreamBit`, written out in their taps. -/
theorem keystreamBitIsLinearTapSum : Obligations.KeystreamBitIsLinearTapSum :=
  fun _ => rfl

end Sys2Proof.Proofs
end

section
/-! The loader, INIT and the warm-up: the bits of the loaded state, the initialized state, and the cycles of a warm-up. -/

namespace Sys2Proof.Machine

/-! ### The loaded state (R120) -/

/-- Every bit of the loaded state, register by register: A and B hold their operand and zeros, C zeros and three ones. -/
theorem bitAt_load (key : Key) (iv : Iv) {k : Nat} (h : k ≤ 287) :
    bitAt (load key iv) k =
      if k ≤ 79 then bitAt key k
      else if k ≤ 92 then false
      else if k ≤ 172 then bitAt iv (k - 93)
      else if k ≤ 284 then false
      else true := by
  have ones : ∀ m < 3, bitAt 0b111#3 m = true := by decide
  refine (bitAt_registers _ _ _ k).trans ?_
  simp only [bitAt_append, bitAt_zero]
  by_cases hA : k < 93
  · by_cases hkey : k ≤ 79
    · rw [if_pos hA, if_pos (by omega), if_pos hkey]
    · rw [if_pos hA, if_neg (by omega), if_neg hkey, if_pos (by omega)]
  rw [if_neg hA, if_neg (by omega : ¬k ≤ 79), if_neg (by omega : ¬k ≤ 92)]
  by_cases hB : k < 177
  · by_cases hiv : k ≤ 172
    · rw [if_pos hB, if_pos (by omega), if_pos hiv]
    · rw [if_pos hB, if_neg (by omega), if_neg hiv, if_pos (by omega)]
  rw [if_neg hB, if_neg (by omega : ¬k ≤ 172)]
  by_cases hzero : k ≤ 284
  · rw [if_pos (by omega), if_pos hzero]
  · rw [if_neg (by omega), if_neg hzero, ones _ (by omega)]

theorem bitAt_load_key (key : Key) (iv : Iv) {k : Nat} (h : k < 80) : bitAt (load key iv) k = bitAt key k := by
  rw [bitAt_load key iv (by omega), if_pos (by omega)]

theorem bitAt_load_iv (key : Key) (iv : Iv) {k : Nat} (h : k < 80) : bitAt (load key iv) (93 + k) = bitAt iv k := by
  rw [bitAt_load key iv (by omega), if_neg (by omega), if_neg (by omega), if_pos (by omega), Nat.add_sub_cancel_left]

theorem load_ne_zero (key : Key) (iv : Iv) : load key iv ≠ 0#288 := by
  intro h
  have h287 : bitAt (load key iv) 287 = true := bitAt_load key iv (le_refl 287)
  rw [h, bitAt_zero] at h287
  contradiction

theorem load_injective {key key' : Key} {iv iv' : Iv} (h : load key iv = load key' iv') : key = key' ∧ iv = iv' :=
  ⟨seq_ext fun k hk => by rw [← bitAt_load_key key iv hk, h, bitAt_load_key key' iv' hk],
    seq_ext fun k hk => by rw [← bitAt_load_iv key iv hk, h, bitAt_load_iv key' iv' hk]⟩

theorem updIter_injective (j : Nat) : Function.Injective (updIter j) := by
  induction j with
  | zero => exact fun _ _ h => h
  | succ j ih => exact fun _ _ h => upd_bijective.injective (ih h)

/-! ### What a cycle of the warm-up writes (R123) -/

@[simp] theorem warmupCycle_s (σ : Regs) : (warmupCycle σ).s = (upd σ.s).1 := by
  simp [warmupCycle, warmupArm_fields]

@[simp] theorem warmupCycle_phase (σ : Regs) :
    (warmupCycle σ).phase = if σ.cnt = 1151#11 then .ready else σ.phase := by
  simp [warmupCycle, warmupArm_fields]

@[simp] theorem warmupCycle_cnt (σ : Regs) :
    (warmupCycle σ).cnt = if σ.cnt = 1151#11 then 0#11 else σ.cnt + 1#11 := by
  simp [warmupCycle, warmupArm_fields]

/-! ### The status outputs of a phase (R43) -/

theorem status_of_warmup {σ : Regs} (h : σ.phase = .warmup) :
    (outputs σ).busy_o = true ∧ (outputs σ).ready_o = false := by
  simp [outputs, Regs.busy, Regs.ready, h]

theorem status_of_ready {σ : Regs} (h : σ.phase = .ready) :
    (outputs σ).busy_o = false ∧ (outputs σ).ready_o = true := by
  simp [outputs, Regs.busy, Regs.ready, h]

/-! ### A run of listed cycles -/

/-- A step of a machine with ports listed runs the command they decode to. -/
theorem step_of_listed {s : State} {p : Ports} {ps : List Ports} (h : s.inputs = p :: ps) :
    step s = exec (decode p) s.advance := by
  obtain ⟨σ, ins, n⟩ := s
  obtain rfl : ins = p :: ps := h
  rfl

/-- A run of cycles whose end is known, and one cycle more. -/
theorem runCycles_succ_last {k : Nat} {s t : State} (h : runCycles k s = .next t) :
    runCycles (k + 1) s = runCycles 1 t := by
  induction k generalizing s with
  | zero =>
    rw [runCycles_zero] at h
    cases h
    rfl
  | succ k ih =>
    obtain ⟨σ, hσ⟩ := exec_cases (decode s.ports) s.advance
    rw [← step_eq] at hσ
    rw [runCycles_of_step hσ] at h ⊢
    exact ih h

theorem decode_ne_rst {p : Ports} (h : p.rst_i = false) : decode p ≠ .rst := by
  obtain hc | hc | hc | hc := cmd_cases p.cmd_i
  · simp [decode_of_nop h hc]
  · simp [decode_of_init h hc]
  · simp [decode_of_step h hc]
  · simp [decode_of_wrstate h hc]

/-! ### The registers through a warm-up (R124, R125) -/

/-- The registers j updates after the INIT that loaded `s₀`, for j up to 1152: the phase and `cnt` tell whether the
warm-up still runs, and no keystream bit shows. -/
structure WarmedBy (s₀ : CipherState) (j : Nat) (σ : Regs) : Prop where
  /-- the update has been made j times -/
  state : σ.s = updIter j s₀
  /-- before the last update: WARMUP, and `cnt` counts -/
  running : j < 1152 → σ.phase = .warmup ∧ σ.cnt.toNat = j
  /-- after it: READY, and `cnt` is 0 again -/
  done : j = 1152 → σ.phase = .ready ∧ σ.cnt = 0#11
  /-- no warm-up bit is shown -/
  no_bit : σ.ks_valid = false ∧ σ.ks_bit = false

/-- An accepted INIT leaves the loaded state with no update made. -/
theorem warmedBy_initArm (σ : Regs) (key iv : BitVec 80) :
    WarmedBy (load (keyOperand key) (ivOperand iv)) 0 (initArm σ.defaults key iv) :=
  ⟨rfl, fun _ => ⟨rfl, rfl⟩, fun h => absurd h (by decide), rfl, rfl⟩

theorem WarmedBy.reject {s₀ : CipherState} {j : Nat} {σ : Regs} (h : WarmedBy s₀ j σ) (c : BitVec 2) :
    WarmedBy s₀ j (σ.reject c) :=
  ⟨h.state, h.running, h.done, h.no_bit⟩

/-- A cycle of the warm-up makes one more update, and the 1152nd ends it. -/
theorem warmedBy_warmupCycle {s₀ : CipherState} {j : Nat} {σ : Regs} (h : WarmedBy s₀ j σ) (hj : j < 1152) :
    WarmedBy s₀ (j + 1) (warmupCycle σ) := by
  obtain ⟨hphase, hcnt⟩ := h.running hj
  refine ⟨by rw [warmupCycle_s, h.state, updIter_succ_last], fun hlt => ?running, fun heq => ?done, by simp [h.no_bit]⟩
  case running =>
    have hmore : σ.cnt ≠ 1151#11 := by bv_omega
    rw [warmupCycle_phase, warmupCycle_cnt, if_neg hmore, if_neg hmore]
    exact ⟨hphase, by bv_omega⟩
  case done =>
    have hlast : σ.cnt = 1151#11 := by bv_omega
    rw [warmupCycle_phase, warmupCycle_cnt, if_pos hlast, if_pos hlast]
    exact ⟨rfl, rfl⟩

/-- Every command but RST makes that update: the report it may leave is no part of `WarmedBy`. -/
theorem exec_warmedBy {s₀ : CipherState} {j : Nat} {i : Instr} {s : State} (h : WarmedBy s₀ j s.regs) (hj : j < 1152)
    (hi : i ≠ .rst) : ∃ σ, exec i s = .next (s.withRegs σ) ∧ WarmedBy s₀ (j + 1) σ := by
  refine ⟨_, exec_in_warmup (h.running hj).1 hi, ?_⟩
  have hcycle := warmedBy_warmupCycle h hj
  split
  · exact hcycle
  · exact hcycle.reject causeBusy

/-- The run of an accepted INIT and j of the 1152 cycles without RST after it: j updates of the loaded state. -/
theorem runCycles_warmup {s : State} {p : Ports} {waits rest : List Ports} {key iv : BitVec 80}
    (hinputs : s.inputs = p :: (waits ++ rest)) (hinit : decode p = .init key iv) (hphase : s.regs.phase ≠ .warmup)
    (hlen : waits.length = 1152) (hrst : ∀ q ∈ waits, q.rst_i = false) {j : Nat} (hj : j ≤ 1152) :
    ∃ t, runCycles (j + 1) s = .next t ∧ t.inputs = waits.drop j ++ rest ∧
      WarmedBy (load (keyOperand key) (ivOperand iv)) j t.regs := by
  induction j with
  | zero =>
    have hstep : step s = .next (s.advance.withRegs (initArm s.regs.defaults key iv)) := by
      rw [step_of_listed hinputs, hinit]
      exact exec_init_of_ne (s := s.advance) hphase key iv
    exact ⟨_, runCycles_of_step hstep 0, by simp [hinputs], warmedBy_initArm _ _ _⟩
  | succ j ih =>
    obtain ⟨t, hrun, hin, hwarm⟩ := ih (by omega)
    have hlt : j < waits.length := by omega
    rw [List.drop_eq_getElem_cons hlt, List.cons_append] at hin
    have hnext : decode waits[j] ≠ .rst := decode_ne_rst (hrst _ (List.getElem_mem hlt))
    obtain ⟨σ, hexec, hσ⟩ := exec_warmedBy (s := t.advance) hwarm (by omega) hnext
    rw [← step_of_listed hin] at hexec
    exact ⟨_, (runCycles_succ_last hrun).trans (runCycles_of_step hexec 0), by simp [hin], hσ⟩

end Sys2Proof.Machine

namespace Sys2Proof.Proofs

open Sys2Proof.Machine

/-- Settles O16: the bits of `bitAt_load`. -/
theorem loadedStateBits : Obligations.LoadedStateBits :=
  fun key iv _ hk => bitAt_load key iv hk

/-- Settles O19: the loaded state is not `0^288` and shows the key and the IV, and updates are injective and never reach
`0^288` from another state. -/
theorem initializedStateNonzeroInjective : Obligations.InitializedStateNonzeroInjective :=
  ⟨fun key iv => updIter_ne_zero _ (load_ne_zero key iv), fun _ _ _ _ h => load_injective (updIter_injective _ h)⟩

/-- Settles O20: NOP leaves the warm-up's cycle, and every other command but RST the same with the BUSY report. -/
theorem warmupUpdatesWhateverCommand : Obligations.WarmupUpdatesWhateverCommand := by
  intro i s hp hi
  refine ⟨_, exec_in_warmup hp hi, ?_⟩
  by_cases hnop : i = .nop
  · simp +contextual [hnop, hp]
  · simp +contextual [hnop, hp, busyCycle_eq, causeBusy]

/-- Settles O21: the registers of `runCycles_warmup`, and the outputs they show. -/
theorem warmupRunsExactly1152Updates : Obligations.WarmupRunsExactly1152Updates := by
  intro s p waits rest key iv hinputs hinit hphase hlen hrst j hj
  obtain ⟨t, hrun, -, hwarm⟩ := runCycles_warmup hinputs hinit hphase hlen hrst hj
  refine ⟨t, hrun, hwarm.state, hwarm.state, fun hlt => ?running, fun heq => ?done⟩
  case running =>
    obtain ⟨hwarmup, hcnt⟩ := hwarm.running hlt
    exact ⟨hwarmup, hcnt, status_of_warmup hwarmup⟩
  case done =>
    obtain ⟨hready, hcnt⟩ := hwarm.done heq
    obtain ⟨hbusy_o, hready_o⟩ := status_of_ready hready
    exact ⟨hready, hcnt, hbusy_o, hready_o, by rw [hwarm.state, heq, initialized, Config.warmupRounds]⟩

/-- Settles O22: INIT clears the keystream registers and no cycle of the warm-up sets them. -/
theorem warmupExposesNoKeystream : Obligations.WarmupExposesNoKeystream := by
  intro s p waits rest key iv hinputs hinit hphase hlen hrst j hj
  obtain ⟨t, hrun, -, hwarm⟩ := runCycles_warmup hinputs hinit hphase hlen hrst hj
  exact ⟨t, hrun, hwarm.no_bit⟩

/-- Settles O18: INIT's arm outside WARMUP, and in WARMUP a rejection leaves what NOP leaves, with the report. -/
theorem initLoadsAndStartsWarmup : Obligations.InitLoadsAndStartsWarmup := by
  refine ⟨fun key iv s hp => ⟨_, exec_init_of_ne hp key iv, rfl, status_of_warmup rfl⟩, fun key iv s hp => ?_⟩
  obtain ⟨σ, hnop, hinit⟩ := exec_of_rejected (i := .init key iv) (s := s) (c := causeBusy) (by rw [hp]; rfl)
  exact ⟨_, hnop, hinit⟩

end Sys2Proof.Proofs
end

section
/-! The keystream bit generator: STEP in each phase, and the bits a host collects from STEPs and NOPs in READY. -/

namespace Sys2Proof.Machine

/-! ### STEP in WARMUP (R123, R141) -/

theorem exec_step_of_warmup {s : State} (h : s.regs.phase = .warmup) :
    exec .step s = .next (s.withRegs ((warmupCycle s.regs).reject causeBusy)) :=
  exec_in_warmup h (by simp)

/-! ### The keystream as a list (R142) -/

@[simp] theorem keystream_length (n : Nat) (s₀ : CipherState) : (keystream n s₀).length = n := by
  induction n generalizing s₀ with
  | zero => rfl
  | succ n ih => rw [keystream, List.length_cons, ih]

/-- The (i+1)-th bit is read from the state i updates after the first. -/
theorem keystream_getElem? {n i : Nat} (s₀ : CipherState) (h : i < n) :
    (keystream n s₀)[i]? = some (upd (updIter i s₀)).2 := by
  induction n generalizing s₀ i with
  | zero => exact absurd h (Nat.not_lt_zero i)
  | succ n ih =>
    cases i with
    | zero => rfl
    | succ i => exact ih (upd s₀).1 (Nat.lt_of_succ_lt_succ h)

/-! ### A cycle of the host's drive (R140, R143, R160) -/

theorem next_nop_of_ne {σ : Regs} (h : σ.phase ≠ .warmup) : next σ (encode .nop) = σ.defaults := by
  simp [next, encode, portsOf, h]

theorem next_step_of_ready {σ : Regs} (h : σ.phase = .ready) :
    next σ (encode .step) = stepArm σ σ.defaults := by
  simp [next, encode, portsOf, h]

/-- A NOP outside WARMUP gives the host no bit. -/
theorem driveLines_nop_cons {σ : Regs} (h : σ.phase ≠ .warmup) (is : List Instr) :
    driveLines σ (.nop :: is) = driveLines σ.defaults is := by
  rw [driveLines, next_nop_of_ne h]
  rfl

/-- A STEP in READY gives the host its bit, before the bits of the commands after it. -/
theorem driveLines_step_cons {σ : Regs} (h : σ.phase = .ready) (is : List Instr) :
    driveLines σ (.step :: is) =
      ((driveLines (stepArm σ σ.defaults) is).1, (upd σ.s).2 :: (driveLines (stepArm σ σ.defaults) is).2) := by
  rw [driveLines, next_step_of_ready h]
  rfl

/-- From READY, whatever NOPs stand between n STEPs, they make n updates and give the first n keystream bits. -/
theorem driveLines_of_ready {σ : Regs} {is : List Instr} (h : σ.phase = .ready)
    (his : ∀ i ∈ is, i = .step ∨ i = .nop) :
    (driveLines σ is).1.s = updIter (is.count .step) σ.s ∧ (driveLines σ is).1.phase = .ready ∧
      (driveLines σ is).2 = keystream (is.count .step) σ.s := by
  induction is generalizing σ with
  | nil => exact ⟨rfl, h, rfl⟩
  | cons i is ih =>
    obtain ⟨hi, hrest⟩ := List.forall_mem_cons.mp his
    obtain rfl | rfl := hi
    · obtain ⟨hs, hphase, hbits⟩ := ih (σ := stepArm σ σ.defaults) h hrest
      rw [driveLines_step_cons h, List.count_cons_self]
      exact ⟨hs, hphase, congrArg ((upd σ.s).2 :: ·) hbits⟩
    · rw [driveLines_nop_cons (by simp [h]), List.count_cons_of_ne (by simp)]
      exact ih (σ := σ.defaults) h hrest

end Sys2Proof.Machine

namespace Sys2Proof.Proofs

open Sys2Proof.Machine

/-- Settles O25: the registers and bits of `driveLines_of_ready`, and the keystream's bits one by one. -/
theorem keystreamNumbering : Obligations.KeystreamNumbering := by
  intro σ is hready his
  obtain ⟨hs, hphase, hbits⟩ := driveLines_of_ready hready his
  rw [hbits]
  exact ⟨hs, hphase, keystream_length _ _, fun _ hi => keystream_getElem? _ hi⟩

/-- Settles O24: in IDLE the report on top of the defaults, in WARMUP the warm-up's cycle with the BUSY report. -/
theorem stepOutsideReadyIsRejected : Obligations.StepOutsideReadyIsRejected :=
  ⟨fun _ hidle => exec_step_of_idle hidle,
    fun _ hwarmup => ⟨_, exec_step_of_warmup hwarmup, by simp [causeBusy, hwarmup]⟩⟩

/-- Settles O23: STEP's arm in READY, on the defaults. -/
theorem stepProducesKeystreamBit : Obligations.StepProducesKeystreamBit := by
  intro s hready
  rw [exec_step_of_ready hready, stepArm, Regs.defaults, hready]
  rfl

end Sys2Proof.Proofs
end

section
/-! NOP, WRSTATE, RST and the cycle: what one cycle can do to the registers, that it is `Next(σ, in)`, the edges of the
phase machine and the invariants every step keeps. -/

namespace Sys2Proof.Machine

/-! ### All a cycle can do to the registers (R163) -/

/-- `Transition σ i σ'`: one arm of rule R163 for each way the command i can take the registers σ to σ'. -/
inductive Transition (σ : Regs) : Instr → Regs → Prop where
  /-- RST, in every phase (R162) -/
  | rst : Transition σ .rst Regs.reset
  /-- NOP in WARMUP: the warm-up's update (R123, R160) -/
  | warmupNop (hp : σ.phase = .warmup) : Transition σ .nop (warmupCycle σ)
  /-- any other command in WARMUP: the update, and the BUSY report (R123, R221) -/
  | warmupBusy {i : Instr} (hp : σ.phase = .warmup) (hnop : i ≠ .nop) (hrst : i ≠ .rst) :
    Transition σ i ((warmupCycle σ).reject causeBusy)
  /-- NOP outside WARMUP (R160) -/
  | nop (hp : σ.phase ≠ .warmup) : Transition σ .nop σ.defaults
  /-- an accepted INIT (R122) -/
  | init (hp : σ.phase ≠ .warmup) (key iv : BitVec 80) : Transition σ (.init key iv) (initArm σ.defaults key iv)
  /-- an accepted STEP (R140) -/
  | step (hp : σ.phase = .ready) : Transition σ .step (stepArm σ σ.defaults)
  /-- STEP in IDLE: the NOT_READY report (R141, R222) -/
  | stepIdle (hp : σ.phase = .idle) : Transition σ .step (σ.defaults.reject causeNotReady)
  /-- an accepted WRSTATE (R161) -/
  | wrstate (hp : σ.phase ≠ .warmup) (state : BitVec 288) :
    Transition σ (.wrstate state) (wrstateArm σ.defaults state)

theorem exec_transition (i : Instr) (s : State) :
    ∃ σ, exec i s = .next (s.withRegs σ) ∧ Transition s.regs i σ := by
  by_cases hrst : i = .rst
  · subst hrst
    exact ⟨_, exec_rst s, .rst⟩
  by_cases hp : s.regs.phase = .warmup
  · refine ⟨_, exec_in_warmup hp hrst, ?_⟩
    split
    next hnop => exact hnop ▸ .warmupNop hp
    next hnop => exact .warmupBusy hp hnop hrst
  cases i with
  | rst => exact absurd rfl hrst
  | nop => exact ⟨_, exec_nop_of_ne hp, .nop hp⟩
  | init key iv => exact ⟨_, exec_init_of_ne hp key iv, .init hp key iv⟩
  | wrstate state => exact ⟨_, exec_wrstate_of_ne hp state, .wrstate hp state⟩
  | step =>
    by_cases hidle : s.regs.phase = .idle
    · exact ⟨_, exec_step_of_idle hidle, .stepIdle hidle⟩
    · have hready := phase_eq_ready hp hidle
      exact ⟨_, exec_step_of_ready hready, .step hready⟩

/-! ### A cycle of the warm-up (R123, R165) -/

theorem warmupCycle_eq {σ : Regs} (hp : σ.phase = .warmup) :
    warmupCycle σ =
      { s := (upd σ.s).1, phase := if σ.cnt = 1151#11 then .ready else .warmup,
        cnt := if σ.cnt = 1151#11 then 0#11 else σ.cnt + 1#11, ks_bit := σ.ks_bit, ks_valid := false,
        rej := false, rej_cause := 0b00#2 } := by
  by_cases hlast : σ.cnt = 1151#11
  · simp [warmupCycle, warmupArm, Config.lastWarmup, hlast]
  · simp [warmupCycle, warmupArm, Config.lastWarmup, hlast, hp]

/-- Within the bound on `cnt` a warm-up goes on below 1151 and ends at it. -/
theorem warmupCycle_phase_iff {σ : Regs} (hinv : σ.StatusInv) (hp : σ.phase = .warmup) :
    (warmupCycle σ).phase ≠ .idle ∧ ((warmupCycle σ).phase = .warmup ↔ σ.cnt.toNat < 1151) ∧
      ((warmupCycle σ).phase = .ready ↔ σ.cnt.toNat = 1151) := by
  have hle : σ.cnt.toNat ≤ 1151 := hinv.cnt_le hp
  by_cases hlast : σ.cnt = 1151#11
  · simp [hlast]
  · have hne : σ.cnt.toNat ≠ 1151 := by bv_omega
    have hlt : σ.cnt.toNat < 1151 := by omega
    simp [hlast, hp, hne, hlt]

/-! ### What keeps the invariants (R167) -/

/-- Registers that show no report meet the invariants when `cnt`, `ks_valid` and the warm-up's state do. -/
theorem inv_of_no_report {σ : Regs} (hrej : σ.rej = false) (hcause : σ.rej_cause = 0b00#2)
    (hzero : σ.phase ≠ .warmup → σ.cnt = 0#11) (hle : σ.phase = .warmup → σ.cnt.toNat ≤ 1151)
    (hvalid : σ.ks_valid = true → σ.phase = .ready) (hwarm : σ.WarmupInv) : σ.Inv :=
  ⟨⟨hzero, hle, hvalid, by simp [hrej, hcause], by simp [hcause], by simp [hrej]⟩, hwarm⟩

/-- A report with a cause that exists keeps the invariants where no keystream bit is shown. -/
theorem Regs.Inv.reject {σ : Regs} (h : σ.Inv) (hvalid : σ.ks_valid = false) {c : BitVec 2} (hnone : c ≠ 0b00#2)
    (hunused : c ≠ 0b11#2) : (σ.reject c).Inv := by
  obtain ⟨hstatus, hwarm⟩ := h
  exact ⟨⟨hstatus.cnt_zero, hstatus.cnt_le, hstatus.valid_ready, by simp [hnone], hunused, by simp [hvalid]⟩, hwarm⟩

theorem inv_reset : Regs.reset.Inv :=
  inv_of_no_report rfl rfl (fun _ => rfl) nofun nofun nofun

theorem Regs.Inv.defaults {σ : Regs} (h : σ.Inv) : σ.defaults.Inv := by
  obtain ⟨hstatus, hwarm⟩ := h
  exact inv_of_no_report rfl rfl hstatus.cnt_zero hstatus.cnt_le nofun hwarm

/-- The loaded state is `Upd^0` of itself. -/
theorem inv_initArm (σ : Regs) (key iv : BitVec 80) : (initArm σ.defaults key iv).Inv :=
  inv_of_no_report rfl rfl (absurd rfl) (fun _ => Nat.zero_le _) nofun
    fun _ => ⟨keyOperand key, ivOperand iv, rfl⟩

theorem inv_wrstateArm (σ : Regs) (state : BitVec 288) : (wrstateArm σ.defaults state).Inv :=
  inv_of_no_report rfl rfl (fun _ => rfl) nofun nofun nofun

theorem Regs.Inv.stepArm {σ : Regs} (h : σ.Inv) (hp : σ.phase = .ready) : (stepArm σ σ.defaults).Inv := by
  obtain ⟨hstatus, -⟩ := h
  have hzero : σ.cnt = 0#11 := hstatus.cnt_zero (by simp [hp])
  exact inv_of_no_report rfl rfl (fun _ => hzero) (fun hw => by simp [hp] at hw) (fun _ => hp)
    (fun hw => by simp [hp] at hw)

/-- The last cycle of a warm-up leaves WARMUP with `cnt` 0; before it `cnt` and the number of updates grow together. -/
theorem Regs.Inv.warmupCycle {σ : Regs} (h : σ.Inv) (hp : σ.phase = .warmup) : (warmupCycle σ).Inv := by
  obtain ⟨hstatus, hwarm⟩ := h
  have hle : σ.cnt.toNat ≤ 1151 := hstatus.cnt_le hp
  by_cases hlast : σ.cnt = 1151#11
  · exact inv_of_no_report (by simp) (by simp) (by simp [hlast]) (by simp [hlast]) (by simp)
      (fun hw => by simp [hlast] at hw)
  · have hcnt : (σ.cnt + 1#11).toNat = σ.cnt.toNat + 1 := by bv_omega
    have hlt : σ.cnt.toNat < 1151 := by bv_omega
    refine inv_of_no_report (by simp) (by simp) (by simp [hlast, hp]) (fun _ => ?bound) (by simp) (fun _ => ?state)
    case bound =>
      rw [warmupCycle_cnt, if_neg hlast, hcnt]
      exact hlt
    case state =>
      obtain ⟨key, iv, hs⟩ := hwarm hp
      refine ⟨key, iv, ?_⟩
      rw [warmupCycle_s, warmupCycle_cnt, if_neg hlast, hcnt, hs, updIter_succ_last]

theorem Transition.keeps_inv {σ σ' : Regs} {i : Instr} (h : Transition σ i σ') (hinv : σ.Inv) : σ'.Inv := by
  cases h with
  | rst => exact inv_reset
  | warmupNop hp => exact hinv.warmupCycle hp
  | warmupBusy hp => exact (hinv.warmupCycle hp).reject (warmupCycle_ks_valid σ) (by decide) (by decide)
  | nop => exact hinv.defaults
  | init _ key iv => exact inv_initArm σ key iv
  | step hp => exact hinv.stepArm hp
  | stepIdle => exact hinv.defaults.reject rfl (by decide) (by decide)
  | wrstate _ state => exact inv_wrstateArm σ state

/-! ### A command run is `Next(σ, in)` (R163) -/

theorem next_of_rst (σ : Regs) {p : Ports} (hr : p.rst_i = true) : next σ p = Regs.reset := by
  simp [next, hr]

theorem next_in_warmup {σ : Regs} {p : Ports} (hr : p.rst_i = false) (hp : σ.phase = .warmup) :
    next σ p = if p.cmd_i = 0b00#2 then warmupCycle σ else busyCycle σ := by
  simp [next, hr, hp, busyCycle, warmupCycle]

theorem decode_eq_nop_iff {p : Ports} (hr : p.rst_i = false) : decode p = .nop ↔ p.cmd_i = 0b00#2 := by
  obtain hc | hc | hc | hc := cmd_cases p.cmd_i
  · simp [decode_of_nop hr hc, hc]
  · simp [decode_of_init hr hc, hc]
  · simp [decode_of_step hr hc, hc]
  · simp [decode_of_wrstate hr hc, hc]

/-- The command the ports decode to takes the registers to `Next(σ, in)` of those ports. -/
theorem exec_decode (p : Ports) (s : State) : exec (decode p) s = .next (s.withRegs (next s.regs p)) := by
  cases hr : p.rst_i with
  | true => rw [decode_of_rst hr, exec_rst, next_of_rst _ hr]
  | false =>
    by_cases hp : s.regs.phase = .warmup
    · rw [exec_in_warmup hp (decode_ne_rst hr), next_in_warmup hr hp]
      simp only [decode_eq_nop_iff hr]
    · obtain hc | hc | hc | hc := cmd_cases p.cmd_i
      · simp [decode_of_nop hr hc, exec_nop_of_ne hp, next, hr, hp, hc]
      · simp [decode_of_init hr hc, exec_init_of_ne hp, next, hr, hp, hc]
      · by_cases hidle : s.regs.phase = .idle
        · simp [decode_of_step hr hc, exec_step_of_idle hidle, next, hr, hc, hidle]
        · have hready := phase_eq_ready hp hidle
          simp [decode_of_step hr hc, exec_step_of_ready hready, next, hr, hc, hready]
      · simp [decode_of_wrstate hr hc, exec_wrstate_of_ne hp, next, hr, hp, hc]

theorem step_eq_next (s : State) :
    step s = .next { regs := next s.regs s.ports, inputs := s.inputs.tail, cycle := s.cycle + 1 } :=
  exec_decode s.ports s.advance

/-! ### Reset and runs (R162, R166) -/

/-- A cycle that asserts `rst_i` keeps nothing of the registers. -/
theorem step_of_rst {s : State} (hr : s.ports.rst_i = true) :
    step s = .next { regs := Regs.reset, inputs := s.inputs.tail, cycle := s.cycle + 1 } := by
  rw [step_eq_next, next_of_rst _ hr]

theorem runCycles_total (n : Nat) (s : State) : ∃ t, runCycles n s = .next t := by
  induction n generalizing s with
  | zero => exact ⟨s, runCycles_zero s⟩
  | succ n ih =>
    rw [runCycles_of_step (step_eq_next s)]
    exact ih _

/-- The ports of a cycle are listed, or picked by the cycle count. -/
theorem ports_congr {s s' : State} (hin : s.inputs = s'.inputs) (hcycle : s.cycle = s'.cycle) : s.ports = s'.ports := by
  simp only [State.ports, hin, hcycle]

end Sys2Proof.Machine

namespace Sys2Proof.Proofs

open Sys2Proof.Machine

/-- Settles O38: a step is one transition of the registers, and every transition keeps the invariants. -/
theorem everyStepKeepsInvariants : Obligations.EveryStepKeepsInvariants := by
  intro s t hinv hstep
  obtain ⟨σ, hexec, htrans⟩ := exec_transition (decode s.ports) s.advance
  rw [step_eq, hexec] at hstep
  cases hstep
  exact htrans.keeps_inv hinv

/-- Settles O32: the decoded command takes the registers to `Next(σ, in)`. -/
theorem stepIsNext : Obligations.StepIsNext := step_eq_next

/-- Settles O35, transition by transition; the bound on `cnt` leaves a warm-up going on below 1151 or ending at it. -/
theorem phaseMachineEdges : Obligations.PhaseMachineEdges := by
  intro i s hinv
  obtain ⟨σ, hexec, htrans⟩ := exec_transition i s
  refine ⟨_, hexec, ?_⟩
  cases htrans with
  | rst => simp [Regs.reset]
  | warmupNop hp => simpa [hp] using warmupCycle_phase_iff hinv hp
  | warmupBusy hp hnop hrst => simpa [hp, hrst] using warmupCycle_phase_iff hinv hp
  | nop hp => simp [hp]
  | init hp => simp [hp]
  | step hp => simp [hp]
  | stepIdle hp => simp [hp]
  | wrstate hp => simp [hp]

/-- Settles O36: every step is a `Next`, and the first one, under RST, leaves the same state on both sides. -/
theorem runAfterResetIsFunctionOfInputs : Obligations.RunAfterResetIsFunctionOfInputs := by
  refine ⟨fun s => ⟨_, step_eq_next s⟩, fun s s' hin hcycle hr n => ?_⟩
  have hr' : s'.ports.rst_i = true := ports_congr hin hcycle ▸ hr
  rw [runCycles_of_step (step_of_rst hr), runCycles_of_step (step_of_rst hr'), hin, hcycle]
  obtain ⟨t, ht⟩ := runCycles_total n { regs := Regs.reset, inputs := s'.inputs.tail, cycle := s'.cycle + 1 }
  exact ⟨t, ht, ht⟩

/-- Settles O29: the defaults alone outside WARMUP, the warm-up's cycle in it. -/
theorem nopKeepsRegisters : Obligations.NopKeepsRegisters := by
  refine ⟨fun s hp => exec_nop_of_ne hp, fun s hp => ?_⟩
  rw [exec_in_warmup hp (by simp), if_pos rfl, warmupCycle_eq hp]
  rfl

/-- Settles O30: WRSTATE's arm outside WARMUP, and in WARMUP a rejection leaves what NOP leaves, with the report. -/
theorem wrstateWritesState : Obligations.WrstateWritesState := by
  refine ⟨fun state s hp => ⟨_, exec_wrstate_of_ne hp state, rfl, (status_of_ready rfl).2⟩, fun state s hp => ?_⟩
  obtain ⟨σ, hnop, hwrstate⟩ := exec_of_rejected (i := .wrstate state) (s := s) (c := causeBusy) (by rw [hp]; rfl)
  exact ⟨_, hnop, hwrstate⟩

/-- Settles O31: RST's arm, which a cycle with `rst_i = 1` runs whatever its other ports hold. -/
theorem rstResetsFromEveryState : Obligations.RstResetsFromEveryState :=
  ⟨exec_rst, fun s p hr => step_of_rst (s := s.drive p) hr⟩

end Sys2Proof.Proofs
end

section
/-! Hex text at the host: its alphabet and case, and the digits a bit list is printed with. -/

namespace Sys2Proof.Machine

/-! ### Digits (R191, R192) -/

/-- The alphabet of hex text (R191). -/
theorem hexValue_isSome_iff (c : Char) :
    (hexValue c).isSome = true ↔ ('0' ≤ c ∧ c ≤ '9') ∨ ('A' ≤ c ∧ c ≤ 'F') ∨ ('a' ≤ c ∧ c ≤ 'f') := by
  have hle (a b : Char) : a ≤ b ↔ a.toNat ≤ b.toNat := UInt32.le_iff_toNat_le
  simp only [hle, hexValue]
  split_ifs with hdecimal hupper hlower
  · exact ⟨fun _ => .inl hdecimal, fun _ => rfl⟩
  · exact ⟨fun _ => .inr (.inl hupper), fun _ => rfl⟩
  · exact ⟨fun _ => .inr (.inr hlower), fun _ => rfl⟩
  · exact ⟨nofun, fun h => (h.elim hdecimal (·.elim hupper hlower)).elim⟩

/-- What holds of every character code below a bound holds of every character below it. -/
theorem char_of_forall_lt {p : Char → Prop} {n : Nat} (h : ∀ k < n, p (Char.ofNat k)) {c : Char} (hc : c.toNat < n) :
    p c :=
  Char.ofNat_toNat c ▸ h c.toNat hc

theorem hexValue_toLower (c : Char) : hexValue c.toLower = hexValue c := by
  by_cases h : c.isUpper = true
  · have hc : c.toNat < 91 := by
      simp only [Char.isUpper, decide_eq_true_eq, UInt32.le_iff_toNat_le] at h
      exact Nat.lt_succ_of_le h.2
    exact char_of_forall_lt (p := fun c => hexValue c.toLower = hexValue c) (by decide) hc
  · rw [Char.toLower_eq_of_not_isUpper h]

/-- The digit of a character's value is that character in lower case. -/
theorem hexDigit_of_hexValue {c : Char} {v : BitVec 4} (h : hexValue c = some v) : hexDigit v = c.toLower := by
  have hc : c.toNat < 103 := by
    simp only [hexValue] at h
    split_ifs at h <;> omega
  exact char_of_forall_lt (p := fun c => ∀ v, hexValue c = some v → hexDigit v = c.toLower) (by decide) hc v h

/-- The digits printed are lower case (R192). -/
theorem hexDigit_range (v : BitVec 4) :
    ('0' ≤ hexDigit v ∧ hexDigit v ≤ '9') ∨ ('a' ≤ hexDigit v ∧ hexDigit v ≤ 'f') := by
  revert v; decide

/-! ### Hex text that is read (R191) -/

theorem hexToBinary_cons_isSome (c : Char) (cs : List Char) :
    (hexToBinary (c :: cs)).isSome = ((hexValue c).isSome && (hexToBinary cs).isSome) := by
  rw [hexToBinary]
  cases hexValue c <;> cases hexToBinary cs <;> rfl

theorem hexToBinary_isSome_iff (text : List Char) :
    (hexToBinary text).isSome = true ↔ ∀ c ∈ text, (hexValue c).isSome = true := by
  induction text with
  | nil => simp [hexToBinary]
  | cons c cs ih => rw [hexToBinary_cons_isSome, Bool.and_eq_true, ih, List.forall_mem_cons]

theorem hexToBinary_map_toLower (text : List Char) : hexToBinary (text.map Char.toLower) = hexToBinary text := by
  induction text with
  | nil => rfl
  | cons c cs ih => rw [List.map_cons, hexToBinary, hexToBinary, hexValue_toLower, ih]

/-! ### Bits that are printed (R192) -/

/-- The first four bits, or as many as there are, make the first digit. -/
theorem binaryToHex_of_ne_nil {bs : List Bit} (h : bs ≠ []) :
    binaryToHex bs = hexDigit (seqOfBits 4 bs) :: binaryToHex (bs.drop 4) := by
  match bs with
  | [] => exact absurd rfl h
  | [_] | [_, _] | [_, _, _] | _ :: _ :: _ :: _ :: _ => rfl

/-- The four bits of a digit in front of a bit list are its first digit. -/
theorem binaryToHex_bitsOfSeq_append (v : BitVec 4) (rest : List Bit) :
    binaryToHex (bitsOfSeq v ++ rest) = hexDigit v :: binaryToHex rest :=
  congrArg (hexDigit · :: binaryToHex rest) (seqOfBits_bitsOfSeq v)

theorem binaryToHex_length (bs : List Bit) : (binaryToHex bs).length = (bs.length + 3) / 4 := by
  by_cases h : bs = []
  · rw [h]; rfl
  · have hpos : 0 < bs.length := List.length_pos_iff.mpr h
    rw [binaryToHex_of_ne_nil h, List.length_cons, binaryToHex_length (bs.drop 4), List.length_drop]
    omega
termination_by bs.length
decreasing_by simpa using hpos

/-- Digit j is made of the bits from position 4j on. -/
theorem binaryToHex_getElem? {bs : List Bit} {j : Nat} {c : Char} (h : (binaryToHex bs)[j]? = some c) :
    c = hexDigit (seqOfBits 4 (bs.drop (4 * j))) := by
  induction j generalizing bs with
  | zero =>
    by_cases hbs : bs = []
    · simp [hbs, binaryToHex] at h
    · simpa [binaryToHex_of_ne_nil hbs] using h.symm
  | succ j ih =>
    by_cases hbs : bs = []
    · simp [hbs, binaryToHex] at h
    · rw [binaryToHex_of_ne_nil hbs, List.getElem?_cons_succ] at h
      rw [ih h, List.drop_drop, Nat.mul_succ, Nat.add_comm]

theorem seqOfBits_testBit (bs : List Bit) {m : Nat} (hm : m ≤ 3) :
    (seqOfBits 4 bs).toNat.testBit (3 - m) = (bs[m]?).getD false := by
  rw [← bitAt_seqOfBits 4 bs m (by omega), bitAt_eq_testBit _ (by omega)]

theorem binaryToHex_hexToBinary {text : List Char} {bs : List Bit} (h : hexToBinary text = some bs) :
    binaryToHex bs = text.map Char.toLower := by
  induction text generalizing bs with
  | nil =>
    obtain rfl : [] = bs := by simpa [hexToBinary] using h
    rfl
  | cons c cs ih =>
    obtain ⟨v, b, hv, hb, rfl⟩ := hexToBinary_cons h
    rw [binaryToHex_bitsOfSeq_append, hexDigit_of_hexValue hv, ih hb, List.map_cons]

end Sys2Proof.Machine

namespace Sys2Proof.Proofs

open Sys2Proof.Machine

/-- Settles O50: text is read character by character, and a digit and its lower-case form have the same value. -/
theorem hexAlphabetAndCase : Obligations.HexAlphabetAndCase := by
  refine ⟨fun text => ?_, hexToBinary_map_toLower⟩
  simp only [hexToBinary_isSome_iff, hexValue_isSome_iff]

/-- Settles O51: digit j is printed from the bits from position 4j on, and its value has them back. -/
theorem hexDigitsOfBitGroups : Obligations.HexDigitsOfBitGroups := by
  refine fun bs => ⟨binaryToHex_length bs, fun j c hc => ?_⟩
  rw [binaryToHex_getElem? hc]
  refine ⟨hexDigit_range _, _, hexValue_hexDigit _, fun m hm => ?_⟩
  rw [seqOfBits_testBit _ hm, List.getElem?_drop]

/-- Settles O52, by induction on the text: each digit's four bits print as the digit in lower case. -/
theorem hexRoundTripLowercases : Obligations.HexRoundTripLowercases :=
  fun _ _ => binaryToHex_hexToBinary

end Sys2Proof.Proofs
end

section
/-! The host's calls: the format checks, a session through the CORE, and what encryption and decryption answer and
leave. -/

namespace Sys2Proof.Machine

/-! ### The format checks (R193, R197) -/

/-- The key and IV parse reads exactly 20 hex digits, and gives its caller's error for every other text. -/
theorem parse80_cases (e : HostError) (text : List Char) :
    (text.length = 20 ∧ (hexToBinary text).isSome = true) ∧ (∃ p, parse80 e text = .ok p) ∨
    ¬(text.length = 20 ∧ (hexToBinary text).isSome = true) ∧ parse80 e text = .error e := by
  unfold parse80
  cases hexToBinary text with
  | none => exact .inr ⟨by simp, rfl⟩
  | some bs =>
    by_cases hlen : text.length = 20
    · exact .inl ⟨⟨hlen, rfl⟩, _, if_pos hlen⟩
    · exact .inr ⟨fun h => hlen h.1, if_neg hlen⟩

theorem parse80_of_hex {e : HostError} {text : List Char}
    (h : text.length = 20 ∧ (hexToBinary text).isSome = true) : ∃ p, parse80 e text = .ok p :=
  (parse80_cases e text).elim (·.2) fun hbad => absurd h hbad.1

theorem parse80_of_not_hex {e : HostError} {text : List Char}
    (h : ¬(text.length = 20 ∧ (hexToBinary text).isSome = true)) : parse80 e text = .error e :=
  (parse80_cases e text).elim (fun hgood => absurd hgood.1 h) (·.2)

theorem parse80_of_not_ok {e : HostError} {text : List Char} (h : ¬∃ p, parse80 e text = .ok p) :
    parse80 e text = .error e :=
  (parse80_cases e text).elim (fun hgood => absurd hgood.2 h) (·.2)

/-- An odd number of digits is not a multiple of 8 bits (R197). -/
theorem parseCiphertext_of_malformed {text : List Char}
    (h : ¬(text.length % 2 = 0 ∧ (hexToBinary text).isSome = true)) :
    parseCiphertext text = .error .malformedCiphertext := by
  unfold parseCiphertext
  cases hbs : hexToBinary text with
  | none => rfl
  | some bs =>
    have hlen := hexToBinary_length hbs
    refine if_neg fun hmod => h ⟨by omega, ?_⟩
    rw [hbs, Option.isSome_some]

/-- Whole bytes printed as hex text parse as the bits they are. -/
theorem parseCiphertext_binaryToHex {bs : List Bit} (h : 8 ∣ bs.length) :
    parseCiphertext (binaryToHex bs) = .ok bs := by
  rw [parseCiphertext, hexToBinary_binaryToHex (dvd_trans (by decide) h)]
  exact if_pos (Nat.mod_eq_zero_of_dvd h)

/-! ### A session through the CORE (R196, R254) -/

/-- The registers after INIT and its warm-up, whatever the CORE held before. -/
def sessionRegs (key : Key) (iv : Iv) : Regs := { Regs.reset with s := initialized key iv, phase := .ready }

/-- The registers after a session of n keystream bits. -/
def sessionEnd (key : Key) (iv : Iv) (n : Nat) : Regs :=
  (driveLines (sessionRegs key iv) (List.replicate n .step)).1

theorem sessionRegs_s (key : Key) (iv : Iv) : (sessionRegs key iv).s = initialized key iv := by
  simp only [sessionRegs]

theorem sessionRegs_eq (key : Key) (iv : Iv) :
    { Regs.reset with s := updIter 1152 (load (keyOperand (portOf key)) (ivOperand (portOf iv))), phase := .ready } =
      sessionRegs key iv := by
  rw [sessionRegs, initialized, Config.warmupRounds]
  rfl

theorem sessionEnd_zero (key : Key) (iv : Iv) : sessionEnd key iv 0 = sessionRegs key iv := rfl

theorem sessionLines_eq (key : Key) (iv : Iv) (n : Nat) :
    sessionLines key iv n =
      .init (portOf key) (portOf iv) :: (List.replicate 1152 .nop ++ List.replicate n .step) := by
  simp only [sessionLines, expandAll, TraceBody.expand, List.flatMap_cons, List.flatMap_nil, List.append_nil,
    List.cons_append]

/-- n STEPs from READY give the first n keystream bits. -/
theorem driveLines_replicate_step {σ : Regs} (h : σ.phase = .ready) (n : Nat) :
    (driveLines σ (List.replicate n .step)).1.phase = .ready ∧
      (driveLines σ (List.replicate n .step)).2 = keystream n σ.s := by
  obtain ⟨-, hphase, hbits⟩ := driveLines_of_ready h fun i hi => .inl (List.eq_of_mem_replicate (n := n) hi)
  rw [List.count_replicate_self] at hbits
  exact ⟨hphase, hbits⟩

theorem sessionEnd_phase (key : Key) (iv : Iv) (n : Nat) : (sessionEnd key iv n).phase = .ready :=
  (driveLines_replicate_step rfl n).1

/-- An accepted INIT gives the host no bit. -/
theorem driveLines_init_cons {σ : Regs} (h : σ.phase ≠ .warmup) (key iv : BitVec 80) (is : List Instr) :
    driveLines σ (.init key iv :: is) = driveLines (initArm σ.defaults key iv) is := by
  have hnext : next σ (encode (.init key iv)) = initArm σ.defaults key iv := by
    simp [next, encode, portsOf, h]
  rw [driveLines, hnext]
  rfl

/-- A cycle of the warm-up gives the host no bit. -/
theorem driveLines_warmup_cons {σ : Regs} (h : σ.phase = .warmup) (is : List Instr) :
    driveLines σ (.nop :: is) = driveLines (warmupCycle σ) is := by
  have hnext : next σ (encode .nop) = warmupCycle σ := next_in_warmup rfl h
  simp [driveLines, hnext, outputs]

/-- The end of a warm-up without a report leaves every register but `s` and `phase` at its reset value. -/
theorem WarmedBy.eq_of_done {s₀ : CipherState} {σ : Regs} (h : WarmedBy s₀ 1152 σ) (hrej : σ.rej = false)
    (hcause : σ.rej_cause = 0b00#2) : σ = { Regs.reset with s := updIter 1152 s₀, phase := .ready } := by
  obtain ⟨hphase, hcnt⟩ := h.done rfl
  obtain ⟨hvalid, hbit⟩ := h.no_bit
  rw [← h.state]
  obtain ⟨s, phase, cnt, ks_bit, ks_valid, rej, rej_cause⟩ := σ
  simp_all [Regs.reset]

/-- The rest of a warm-up under NOP. -/
theorem driveLines_warmup {s₀ : CipherState} {j n : Nat} {σ : Regs} (h : WarmedBy s₀ j σ) (hrej : σ.rej = false)
    (hcause : σ.rej_cause = 0b00#2) (hn : j + n = 1152) (is : List Instr) :
    driveLines σ (List.replicate n .nop ++ is) =
      driveLines { Regs.reset with s := updIter 1152 s₀, phase := .ready } is := by
  induction n generalizing j σ with
  | zero =>
    obtain rfl : j = 1152 := hn
    rw [← h.eq_of_done hrej hcause]
    rfl
  | succ n ih =>
    have hj : j < 1152 := by omega
    rw [List.replicate_succ, List.cons_append, driveLines_warmup_cons (h.running hj).1]
    exact ih (warmedBy_warmupCycle h hj) (warmupCycle_rej σ) (warmupCycle_rej_cause σ) (by omega)

/-- A session forgets the registers it finds: INIT writes every one of them (R122, R202). -/
theorem driveLines_session {σ : Regs} (h : σ.phase ≠ .warmup) (key : Key) (iv : Iv) (n : Nat) :
    driveLines σ (sessionLines key iv n) = (sessionEnd key iv n, keystream n (initialized key iv)) := by
  have hbits := (driveLines_replicate_step (σ := sessionRegs key iv) rfl n).2
  rw [sessionRegs_s] at hbits
  rw [sessionLines_eq, driveLines_init_cons h, driveLines_warmup (warmedBy_initArm _ _ _) rfl rfl rfl, sessionRegs_eq,
    ← hbits, sessionEnd]

/-! ### What a call answers (R196, R197, R198) -/

section Calls

variable (σ : Regs) (bytes : List Byte) (cipher : List Char) {keyText ivText : List Char} {e : HostError}
  {key : Key} {iv : Iv} {c : List Bit}

theorem encryptOn_of_key_error (hk : parseKey keyText = .error e) :
    encryptOn σ bytes keyText ivText = (.error e, σ) := by
  rw [encryptOn, hk]

theorem encryptOn_of_iv_error (hk : parseKey keyText = .ok key) (hv : parseIv ivText = .error e) :
    encryptOn σ bytes keyText ivText = (.error e, σ) := by
  rw [encryptOn, hk, hv]

theorem decryptOn_of_key_error (hk : parseKey keyText = .error e) :
    decryptOn σ cipher keyText ivText = (.error e, σ) := by
  rw [decryptOn, hk]

theorem decryptOn_of_iv_error (hk : parseKey keyText = .ok key) (hv : parseIv ivText = .error e) :
    decryptOn σ cipher keyText ivText = (.error e, σ) := by
  rw [decryptOn, hk, hv]

theorem decryptOn_of_cipher_error {cipher : List Char} (hk : parseKey keyText = .ok key) (hv : parseIv ivText = .ok iv)
    (hc : parseCiphertext cipher = .error e) : decryptOn σ cipher keyText ivText = (.error e, σ) := by
  rw [decryptOn, hk, hv, hc]

variable {σ} (hσ : σ.phase ≠ .warmup) (hk : parseKey keyText = .ok key) (hv : parseIv ivText = .ok iv)

include hσ hk hv

theorem encryptOn_of_parsed :
    encryptOn σ bytes keyText ivText =
      (.ok (binaryToHex (xorBits (bitsOfBytes bytes) (keystream (8 * bytes.length) (initialized key iv)))),
        sessionEnd key iv (8 * bytes.length)) := by
  rw [encryptOn, hk, hv]
  simp only [driveLines_session hσ, bitsOfBytes_length]

theorem decryptOn_of_parsed {cipher : List Char} (hc : parseCiphertext cipher = .ok c) :
    decryptOn σ cipher keyText ivText =
      (.ok (bytesOfBits (xorBits c (keystream c.length (initialized key iv)))), sessionEnd key iv c.length) := by
  rw [decryptOn, hk, hv, hc]
  simp only [driveLines_session hσ]

end Calls

/-! ### A call depends on its arguments only (R202) -/

/-- A call of the host that carries nothing over from the registers: it fails with one error on every CORE and leaves
the registers, or it gives one answer on every CORE in IDLE or READY and leaves the same registers, in READY. -/
def Isolated {α : Type} (call : Regs → Except HostError α × Regs) : Prop :=
  (∃ e, ∀ σ, call σ = (.error e, σ)) ∨
    ∃ r τ, τ.phase = .ready ∧ ∀ σ, σ.phase ≠ .warmup → call σ = (.ok r, τ)

theorem Isolated.phase_ne {α : Type} {call : Regs → Except HostError α × Regs} (h : Isolated call) {σ : Regs}
    (hσ : σ.phase ≠ .warmup) : (call σ).2.phase ≠ .warmup := by
  obtain ⟨e, he⟩ | ⟨r, τ, hτ, hr⟩ := h
  · rwa [he]
  · rw [hr σ hσ]
    simp [hτ]

theorem Isolated.result_eq {α : Type} {call : Regs → Except HostError α × Regs} (h : Isolated call) {σ τ : Regs}
    (hσ : σ.phase ≠ .warmup) (hτ : τ.phase ≠ .warmup) : (call σ).1 = (call τ).1 := by
  obtain ⟨e, he⟩ | ⟨r, _, -, hr⟩ := h
  · rw [he, he]
  · rw [hr σ hσ, hr τ hτ]

theorem isolated_encryptOn (bytes : List Byte) (key iv : List Char) :
    Isolated fun σ => encryptOn σ bytes key iv := by
  cases hk : parseKey key with
  | error e => exact .inl ⟨e, fun σ => encryptOn_of_key_error σ bytes hk⟩
  | ok k =>
    cases hv : parseIv iv with
    | error e => exact .inl ⟨e, fun σ => encryptOn_of_iv_error σ bytes hk hv⟩
    | ok v => exact .inr ⟨_, _, sessionEnd_phase k v _, fun σ hσ => encryptOn_of_parsed bytes hσ hk hv⟩

theorem isolated_decryptOn (cipher key iv : List Char) : Isolated fun σ => decryptOn σ cipher key iv := by
  cases hk : parseKey key with
  | error e => exact .inl ⟨e, fun σ => decryptOn_of_key_error σ cipher hk⟩
  | ok k =>
    cases hv : parseIv iv with
    | error e => exact .inl ⟨e, fun σ => decryptOn_of_iv_error σ cipher hk hv⟩
    | ok v =>
      cases hc : parseCiphertext cipher with
      | error e => exact .inl ⟨e, fun σ => decryptOn_of_cipher_error σ hk hv hc⟩
      | ok c => exact .inr ⟨_, _, sessionEnd_phase k v _, fun σ hσ => decryptOn_of_parsed hσ hk hv hc⟩

/-! ### Decryption of an encryption (R200) -/

theorem xorBits_length {p z : List Bit} (h : p.length = z.length) : (xorBits p z).length = p.length := by
  simp [xorBits, h]

/-- Adding the same keystream twice gives the bits back. -/
theorem xorBits_cancel {p z : List Bit} (h : p.length = z.length) : xorBits (xorBits p z) z = p := by
  induction p generalizing z with
  | nil => rfl
  | cons b p ih =>
    cases z with
    | nil => simp at h
    | cons k z =>
      have hrest : xorBits (xorBits p z) z = p := ih (by simpa using h)
      change xor (xor b k) k :: xorBits (xorBits p z) z = b :: p
      rw [hrest, Bool.xor_assoc, Bool.xor_self, Bool.xor_false]

theorem parses_of_encryptOn_ok {σ : Regs} {bytes : List Byte} {key iv cipher : List Char}
    (h : (encryptOn σ bytes key iv).1 = .ok cipher) : (∃ k, parseKey key = .ok k) ∧ ∃ v, parseIv iv = .ok v := by
  cases hk : parseKey key with
  | error e => simp [encryptOn_of_key_error σ bytes hk] at h
  | ok k =>
    cases hv : parseIv iv with
    | error e => simp [encryptOn_of_iv_error σ bytes hk hv] at h
    | ok v => exact ⟨⟨k, rfl⟩, v, rfl⟩

end Sys2Proof.Machine

namespace Sys2Proof.Proofs

open Sys2Proof.Machine

/-- Settles O53: each check fails on its malformed text, and a call that fails one leaves the registers. -/
theorem formatErrorsIssueNoCommand : Obligations.FormatErrorsIssueNoCommand := by
  refine fun σ bytes cipher key iv => ⟨fun hkey => ?key, fun hkey hiv => ?iv, fun hkey hiv hcipher => ?cipher⟩
  case key =>
    exact ⟨encryptOn_of_key_error σ bytes (parse80_of_not_hex hkey),
      decryptOn_of_key_error σ cipher (parse80_of_not_hex hkey)⟩
  case iv =>
    obtain ⟨k, hk⟩ := parse80_of_hex hkey
    exact ⟨encryptOn_of_iv_error σ bytes hk (parse80_of_not_hex hiv),
      decryptOn_of_iv_error σ cipher hk (parse80_of_not_hex hiv)⟩
  case cipher =>
    obtain ⟨k, hk⟩ := parse80_of_hex hkey
    obtain ⟨v, hv⟩ := parse80_of_hex hiv
    exact decryptOn_of_cipher_error σ hk hv (parseCiphertext_of_malformed hcipher)

/-- Settles O56: the ciphertext parses as the sum of the plaintext's bits and the keystream, and the same keystream is
added to it again. -/
theorem decryptInvertsEncrypt : Obligations.DecryptInvertsEncrypt := by
  intro bytes key iv cipher h
  obtain ⟨⟨k, hk⟩, v, hv⟩ := parses_of_encryptOn_ok h
  have hreset : Regs.reset.phase ≠ .warmup := by decide
  have hz : (bitsOfBytes bytes).length = (keystream (8 * bytes.length) (initialized k v)).length := by
    rw [bitsOfBytes_length, keystream_length]
  have hlen := (xorBits_length hz).trans (bitsOfBytes_length bytes)
  rw [encryptTrivium, encryptOn_of_parsed bytes hreset hk hv, Except.ok.injEq] at h
  have hc := h ▸ parseCiphertext_binaryToHex (hlen ▸ dvd_mul_right 8 bytes.length)
  rw [decryptTrivium, decryptOn_of_parsed hreset hk hv hc, hlen, xorBits_cancel hz, bytesOfBits_bitsOfBytes]

/-- Settles O57: a session of no bits adds nothing to nothing, and a malformed key or IV fails before it. -/
theorem emptyInput : Obligations.EmptyInput := by
  have hreset : Regs.reset.phase ≠ .warmup := by decide
  refine fun key iv => ⟨fun ⟨k, hk⟩ ⟨v, hv⟩ => ?valid, fun hkey => ?key, fun ⟨k, hk⟩ hiv => ?iv⟩
  case valid =>
    rw [encryptTrivium, decryptTrivium, encryptOn_of_parsed [] hreset hk hv, decryptOn_of_parsed hreset hk hv rfl]
    exact ⟨rfl, rfl⟩
  case key =>
    have hk : parseKey key = .error .invalidKeyFormat := parse80_of_not_ok hkey
    rw [encryptTrivium, decryptTrivium, encryptOn_of_key_error _ _ hk, decryptOn_of_key_error _ _ hk]
    exact ⟨rfl, rfl⟩
  case iv =>
    have hv : parseIv iv = .error .invalidIvFormat := parse80_of_not_ok hiv
    rw [encryptTrivium, decryptTrivium, encryptOn_of_iv_error _ _ hk hv, decryptOn_of_iv_error _ _ hk hv]
    exact ⟨rfl, rfl⟩

/-- Settles O58: no call before leaves WARMUP, and a session's INIT writes every register. -/
theorem sessionsAreIsolated : Obligations.SessionsAreIsolated := by
  intro σ τ ρ bytes₀ bytes cipher₀ cipher key₀ key iv₀ iv hσ hτ hρ
  have hρ' : ρ.phase ≠ .warmup := by
    obtain rfl | rfl | rfl := hρ
    · exact hσ
    · exact (isolated_encryptOn bytes₀ key₀ iv₀).phase_ne hσ
    · exact (isolated_decryptOn cipher₀ key₀ iv₀).phase_ne hσ
  refine ⟨(isolated_encryptOn bytes key iv).result_eq hρ' hτ, (isolated_decryptOn cipher key iv).result_eq hρ' hτ,
    fun ⟨k, hk⟩ ⟨v, hv⟩ => ⟨fun _ => ?_, fun _ ⟨c, hc⟩ => ?_⟩⟩
  · rw [encryptOn_of_parsed bytes hρ' hk hv, encryptOn_of_parsed bytes hτ hk hv]
  · rw [decryptOn_of_parsed hρ' hk hv hc, decryptOn_of_parsed hτ hk hv hc]

/-- Settles O60: a session of no bits ends where its warm-up does. -/
theorem emptySessionStillInitializes : Obligations.EmptySessionStillInitializes := by
  intro σ keyText ivText key iv hσ hk hv
  rw [encryptOn_of_parsed [] hσ hk hv, decryptOn_of_parsed hσ hk hv rfl]
  exact ⟨sessionEnd_zero key iv, sessionEnd_zero key iv⟩

end Sys2Proof.Proofs
end

section
/-! Rejections in the place of exceptions: what a rejected command leaves, and the last cycle of a warm-up. -/

namespace Sys2Proof.Machine

/-- READY rejects no command (R164). -/
theorem rejectCause_ready (i : Instr) : rejectCause .ready i = none := by
  cases i <;> rfl

/-- A command other than NOP and RST in WARMUP leaves the warm-up's cycle with the BUSY report (R221). -/
theorem exec_busy {i : Instr} {s : State} (hp : s.regs.phase = .warmup) (hnop : i ≠ .nop) (hrst : i ≠ .rst) :
    exec i s = .next (s.withRegs ((warmupCycle s.regs).reject causeBusy)) := by
  rw [exec_in_warmup hp hrst, if_neg hnop, busyCycle_eq]

/-- The cycle with `cnt = 1151` ends the warm-up (R123). -/
theorem warmupCycle_phase_of_last {σ : Regs} (hlast : σ.cnt = 1151#11) : (warmupCycle σ).phase = .ready := by
  rw [warmupCycle_phase, if_pos hlast]

end Sys2Proof.Machine

namespace Sys2Proof.Proofs

open Sys2Proof.Machine

/-- Settles O43: a rejection is NOP's cycle with the report on top. -/
theorem rejectionIsNopPlusReport : Obligations.RejectionIsNopPlusReport := by
  intro i s cause hcause
  obtain ⟨σ, hnop, hexec⟩ := exec_of_rejected hcause
  exact ⟨s.withRegs σ, hnop, hexec⟩

/-- Settles O45: the rejected command's cycle is still the warm-up's last, so it leaves READY, which accepts every
command. -/
theorem lastWarmupCycleRejects : Obligations.LastWarmupCycleRejects := by
  intro i s hp hlast hnop hrst
  let t := s.withRegs ((warmupCycle s.regs).reject causeBusy)
  have hready : t.regs.phase = .ready := warmupCycle_phase_of_last hlast
  have haccepted : rejectCause t.regs.phase i = none := hready ▸ rejectCause_ready i
  obtain ⟨τ, hnext, hrej, -⟩ := exec_of_accepted haccepted
  exact ⟨t, t.withRegs τ, exec_busy hp hnop hrst, rfl, rfl, warmupCycle_ks_valid s.regs, (status_of_warmup hp).2,
    (status_of_ready hready).2, hnext, hrej⟩

end Sys2Proof.Proofs
end

section
/-! Reset held for several cycles, and the commands that leave IDLE. -/

namespace Sys2Proof.Machine

/-- Each cycle of a reset that is held leaves the reset registers, the first from whatever they were (R250, R251). -/
theorem runCycles_of_held_reset {s : State} {resets rest : List Ports} (hinputs : s.inputs = resets ++ rest)
    (hrst : ∀ p ∈ resets, p.rst_i = true) {n : Nat} (hn : n < resets.length) :
    ∃ t, runCycles (n + 1) s = .next t ∧ t.regs = Regs.reset := by
  induction n generalizing s resets with
  | zero =>
    obtain ⟨p, ps, rfl⟩ := List.exists_cons_of_length_pos hn
    have hstep : step s = .next (s.advance.withRegs Regs.reset) := by
      rw [step_of_listed hinputs, decode_of_rst (hrst p List.mem_cons_self), exec_rst]
    exact ⟨_, runCycles_of_step hstep 0, rfl⟩
  | succ n ih =>
    obtain ⟨p, ps, rfl⟩ := List.exists_cons_of_length_pos (Nat.zero_lt_of_lt hn)
    rw [runCycles_of_step (step_eq_next s)]
    exact ih (by simp [hinputs]) (fun q hq => hrst q (List.mem_cons_of_mem p hq)) (Nat.lt_of_succ_lt_succ hn)

end Sys2Proof.Machine

namespace Sys2Proof.Proofs

open Sys2Proof.Machine

/-- Settles O47: the registers of `runCycles_of_held_reset`, whose outputs are all 0. -/
theorem heldResetKeepsResetValues : Obligations.HeldResetKeepsResetValues := by
  intro s resets rest hinputs hrst n hpos hn
  obtain ⟨m, rfl⟩ := Nat.exists_eq_add_of_le' hpos
  obtain ⟨t, hrun, hreset⟩ := runCycles_of_held_reset hinputs hrst hn
  exact ⟨t, hrun, hreset, by rw [hreset]; rfl⟩

/-- Settles O48, command by command: INIT and WRSTATE write the phase, RST writes IDLE again, and NOP and the rejected
STEP keep it. -/
theorem idleLeftByInitOrWrstateOnly : Obligations.IdleLeftByInitOrWrstateOnly := by
  refine ⟨rfl, fun i s hidle => ?_⟩
  have hne : s.regs.phase ≠ .warmup := by simp [hidle]
  cases i with
  | nop => exact ⟨_, exec_nop_of_ne hne, by simp [hidle]⟩
  | init key iv => exact ⟨_, exec_init_of_ne hne key iv, by simp⟩
  | step => exact ⟨_, exec_step_of_idle hidle, by simp [hidle, causeNotReady]⟩
  | wrstate state => exact ⟨_, exec_wrstate_of_ne hne state, by simp⟩
  | rst => exact ⟨_, exec_rst s, by simp [Regs.reset]⟩

end Sys2Proof.Proofs
end

section
/-! The text of a trace line: the tokens a printed line is cut into, and the line read back from them. -/

namespace Sys2Proof.Machine

/-! ### Where a token ends (R86, log entry 6) -/

/-- A word: at least one character, and none that ends a token. -/
def isWord (w : List Char) : Bool := !w.isEmpty && w.all wordChar

theorem isWord_iff {w : List Char} : isWord w = true ↔ w ≠ [] ∧ ∀ c ∈ w, wordChar c = true := by
  simp [isWord]

theorem ne_colon_of_isWord {w : List Char} (hw : isWord w = true) : w ≠ [':'] := by
  rintro rfl
  exact absurd hw (by decide)

/-- A text that ends the token read before it: the end of the line, a space, a comma. -/
def EndsToken (rest : List Char) : Prop := ∀ cur, tokens cur rest = flushToken cur ++ tokens [] rest

theorem endsToken_nil : EndsToken [] := fun cur => (List.append_nil (flushToken cur)).symm

theorem endsToken_space (rest : List Char) : EndsToken (' ' :: rest) := fun _ => rfl

theorem endsToken_comma (rest : List Char) : EndsToken (',' :: rest) := fun _ => rfl

theorem tokens_space (rest : List Char) : tokens [] (' ' :: rest) = tokens [] rest := rfl

theorem tokens_comma (rest : List Char) : tokens [] (',' :: rest) = [','] :: tokens [] rest := rfl

theorem tokens_comment (comment : List Char) : tokens [] (' ' :: ';' :: comment) = [] := rfl

/-- A label is two tokens: its own text, and the colon. -/
theorem tokens_label (rest : List Char) : tokens [] ('L' :: ':' :: ' ' :: rest) = ['L'] :: [':'] :: tokens [] rest :=
  rfl

/-- A word is one token up to the text that ends it. -/
theorem tokens_word_append {w rest : List Char} (hw : isWord w = true) (hend : EndsToken rest) :
    tokens [] (w ++ rest) = w :: tokens [] rest := by
  obtain ⟨hne, hchars⟩ := isWord_iff.mp hw
  rw [tokens_word [] w rest hchars, List.nil_append, hend w, flushToken, if_neg hne, List.singleton_append]

/-! ### The tokens of a printed line -/

theorem wordChar_hexDigit (v : BitVec 4) : wordChar (hexDigit v) = true := by
  revert v; decide

/-- The hex text of a port of whole digits is one word. -/
theorem isWord_hexText {w : Nat} (p : BitVec w) (h : 4 ∣ w) (hpos : 0 < w) : isWord (hexText p) = true := by
  refine isWord_iff.mpr ⟨?nonempty, fun c hc => ?digit⟩
  case nonempty =>
    rw [← List.length_pos_iff, hexText_length p h]
    exact Nat.div_pos (Nat.le_of_dvd hpos h) (by decide)
  case digit =>
    obtain ⟨j, hj⟩ := List.getElem?_of_mem hc
    rw [binaryToHex_getElem? hj]
    exact wordChar_hexDigit _

theorem isWord_hexText80 (p : BitVec 80) : isWord (hexText p) = true := isWord_hexText p (by decide) (by decide)

theorem isWord_hexText288 (p : BitVec 288) : isWord (hexText p) = true := isWord_hexText p (by decide) (by decide)

/-- A mnemonic with a key and an IV behind it, the form of INIT and INITW. -/
theorem tokens_keyIv {m : List Char} (hm : isWord m = true) (key iv : BitVec 80) {rest : List Char}
    (hend : EndsToken rest) :
    tokens [] (m ++ ' ' :: (hexText key ++ ',' :: ' ' :: (hexText iv ++ rest))) =
      m :: hexText key :: [','] :: hexText iv :: tokens [] rest := by
  rw [tokens_word_append hm (endsToken_space _), tokens_space,
    tokens_word_append (isWord_hexText80 key) (endsToken_comma _), tokens_comma, tokens_space,
    tokens_word_append (isWord_hexText80 iv) hend]

/-- A mnemonic with a state behind it, the form of WRSTATE. -/
theorem tokens_state {m : List Char} (hm : isWord m = true) (state : BitVec 288) {rest : List Char}
    (hend : EndsToken rest) :
    tokens [] (m ++ ' ' :: (hexText state ++ rest)) = m :: hexText state :: tokens [] rest := by
  rw [tokens_word_append hm (endsToken_space _), tokens_space, tokens_word_append (isWord_hexText288 state) hend]

/-- The mnemonic of a command and the operands it is printed with. -/
def instrTokens : Instr → List (List Char)
  | .nop => [['N', 'O', 'P']]
  | .init key iv => [['I', 'N', 'I', 'T'], hexText key, [','], hexText iv]
  | .step => [['S', 'T', 'E', 'P']]
  | .wrstate state => [['W', 'R', 'S', 'T', 'A', 'T', 'E'], hexText state]
  | .rst => [['R', 'S', 'T']]

theorem tokens_printInstr_append (i : Instr) {rest : List Char} (hend : EndsToken rest) :
    tokens [] (printInstr i ++ rest) = instrTokens i ++ tokens [] rest := by
  cases i with
  | nop => exact tokens_word_append (w := ['N', 'O', 'P']) rfl hend
  | init key iv =>
    simpa [printInstr, instrTokens] using tokens_keyIv (m := ['I', 'N', 'I', 'T']) rfl key iv hend
  | step => exact tokens_word_append (w := ['S', 'T', 'E', 'P']) rfl hend
  | wrstate state =>
    simpa [printInstr, instrTokens] using tokens_state (m := ['W', 'R', 'S', 'T', 'A', 'T', 'E']) rfl state hend
  | rst => exact tokens_word_append (w := ['R', 'S', 'T']) rfl hend

theorem tokens_printInstr (i : Instr) : tokens [] (printInstr i) = instrTokens i := by
  simpa [tokens, flushToken] using tokens_printInstr_append i endsToken_nil

/-- A label before a printed line adds its two tokens, and a comment after it adds none. -/
theorem tokens_labelled_printInstr (i : Instr) (comment : List Char) :
    tokens [] (['L', ':', ' '] ++ printInstr i ++ [' ', ';'] ++ comment) = ['L'] :: [':'] :: instrTokens i := by
  have hline := tokens_printInstr_append i (endsToken_space (';' :: comment))
  rw [tokens_comment, List.append_nil] at hline
  simp [tokens_label, hline]

/-! ### A line read from its tokens (R86) -/

/-- Every hex digit of a printed operand is read. -/
theorem hexOperand_hexText {w : Nat} (p : BitVec w) (h : 4 ∣ w) : hexOperand w (hexText p) = .ok p := by
  simp [hexOperand, hexToBinary_hexText p h, hexText_length p h, seqOfBits_bitsOfSeq]

theorem keyIvOperands_hexText (key iv : BitVec 80) : keyIvOperands (hexText key) (hexText iv) = .ok (key, iv) := by
  rw [keyIvOperands, hexOperand_hexText key (by decide), hexOperand_hexText iv (by decide)]

theorem parseBody_instrTokens (i : Instr) : parseBody (instrTokens i) = .ok (.command i) := by
  cases i with
  | nop => rfl
  | init key iv => simp [instrTokens, parseBody, keyIvOperands_hexText, Except.map]
  | step => rfl
  | wrstate state => simp [instrTokens, parseBody, hexOperand_hexText state (by decide), Except.map]
  | rst => rfl

theorem parseBody_initw (key iv : BitVec 80) :
    parseBody [['I', 'N', 'I', 'T', 'W'], hexText key, [','], hexText iv] = .ok (.initw key iv) := by
  simp [parseBody, keyIvOperands_hexText, Except.map]

theorem parseLine_of_label {text w : List Char} {ts : List (List Char)} {b : TraceBody}
    (htokens : tokens [] text = w :: [':'] :: ts) (hbody : parseBody ts = .ok b) :
    parseLine text = .ok { label := some w, body := b } := by
  rw [parseLine, htokens]
  simp [hbody, Except.map]

/-- A line whose second token is no colon has no label. -/
theorem parseLine_of_no_label {text : List Char} {ts : List (List Char)} {b : TraceBody}
    (htokens : tokens [] text = ts) (hcolon : ts[1]? ≠ some [':']) (hbody : parseBody ts = .ok b) :
    parseLine text = .ok { label := none, body := b } := by
  rw [parseLine, htokens]
  match ts with
  | [] | [_] => simp [hbody, Except.map]
  | w :: second :: rest =>
    have hsecond : second ≠ [':'] := fun h => hcolon (congrArg some h)
    simp [hsecond, hbody, Except.map]

theorem instrTokens_second_ne_colon (i : Instr) : (instrTokens i)[1]? ≠ some [':'] := by
  cases i with
  | nop | step | rst => exact nofun
  | init key iv => exact fun h => ne_colon_of_isWord (isWord_hexText80 key) (Option.some.inj h)
  | wrstate state => exact fun h => ne_colon_of_isWord (isWord_hexText288 state) (Option.some.inj h)

end Sys2Proof.Machine

namespace Sys2Proof.Proofs

open Sys2Proof.Machine

/-- Settles O4: a printed line is cut into its mnemonic and operands, with a label's two tokens before them and no token
of a comment after them, and each operand's digits are read back as its bits (lexical form: log entry 6). -/
theorem traceTextRoundTrip : Obligations.TraceTextRoundTrip :=
  fun i => ⟨parseLine_of_no_label (tokens_printInstr i) (instrTokens_second_ne_colon i) (parseBody_instrTokens i),
    fun comment => parseLine_of_label (tokens_labelled_printInstr i comment) (parseBody_instrTokens i)⟩

/-- Settles O6: each expansion by its clause, and the text of an INITW line by its tokens. -/
theorem pseudoInstructionsExpand : Obligations.PseudoInstructionsExpand := by
  refine ⟨fun _ => rfl, fun _ => rfl, fun _ _ => rfl, fun key iv => ?_⟩
  have htokens := tokens_keyIv (m := ['I', 'N', 'I', 'T', 'W']) rfl key iv endsToken_nil
  refine parseLine_of_no_label ?_ (fun h => ?_) (parseBody_initw key iv)
  · simpa [tokens, flushToken] using htokens
  · exact ne_colon_of_isWord (isWord_hexText80 key) (Option.some.inj h)

end Sys2Proof.Proofs
end

section
/-! The corner cases of the update: which bits of a state reach which bits of the next one. -/

namespace Sys2Proof.Machine

/-! ### The taps of each feedback bit and of z (R102, R103, R104) -/

theorem feedback1_congr {s s' : CipherState} (h : ∀ k ∈ [65, 92, 90, 91, 170], bitAt s k = bitAt s' k) :
    feedback1 s = feedback1 s' := by
  simp only [List.forall_mem_cons] at h
  simp only [feedback1, t1, h]

theorem feedback2_congr {s s' : CipherState} (h : ∀ k ∈ [161, 176, 174, 175, 263], bitAt s k = bitAt s' k) :
    feedback2 s = feedback2 s' := by
  simp only [List.forall_mem_cons] at h
  simp only [feedback2, t2, h]

theorem feedback3_congr {s s' : CipherState} (h : ∀ k ∈ [242, 287, 285, 286, 68], bitAt s k = bitAt s' k) :
    feedback3 s = feedback3 s' := by
  simp only [List.forall_mem_cons] at h
  simp only [feedback3, t3, h]

theorem keystreamBit_congr {s s' : CipherState} (h : ∀ k ∈ [65, 92, 161, 176, 242, 287], bitAt s k = bitAt s' k) :
    keystreamBit s = keystreamBit s' := by
  simp only [List.forall_mem_cons] at h
  simp only [keystreamBit, t1, t2, t3, h]

/-! ### States that differ in one bit (R111) -/

/-- The two states have the same bits at all positions but d. -/
def AgreeExcept (d : Nat) (s s' : CipherState) : Prop := ∀ k, k ≤ 287 → k ≠ d → bitAt s k = bitAt s' k

theorem AgreeExcept.on {d : Nat} {s s' : CipherState} (h : AgreeExcept d s s') {taps : List Nat}
    (htaps : ∀ k ∈ taps, k ≤ 287 ∧ k ≠ d) : ∀ k ∈ taps, bitAt s k = bitAt s' k :=
  fun k hk => h k (htaps k hk).1 (htaps k hk).2

/-- Where two states agree on the bit shifted in, and on the feedback bit at a register's first position, the next
states agree. -/
theorem bitAt_upd_congr {s s' : CipherState} {k : Nat} (hk : k ≤ 287) (h0 : k = 0 → feedback3 s = feedback3 s')
    (h93 : k = 93 → feedback1 s = feedback1 s') (h177 : k = 177 → feedback2 s = feedback2 s')
    (hshift : k ≠ 0 → k ≠ 93 → k ≠ 177 → bitAt s (k - 1) = bitAt s' (k - 1)) :
    bitAt (upd s).1 k = bitAt (upd s').1 k := by
  rw [bitAt_upd s (by omega), bitAt_upd s' (by omega)]
  split_ifs with hA hB hC
  · exact h0 hA
  · exact h93 hB
  · exact h177 hC
  · exact hshift hA hB hC

/-- The bit register A drops reaches the next state only as the first bit of B. -/
theorem AgreeExcept.upd_of_92 {s s' : CipherState} (h : AgreeExcept 92 s s') :
    AgreeExcept 93 (upd s).1 (upd s').1 := fun _ hk hne =>
  bitAt_upd_congr hk (fun _ => feedback3_congr (h.on (by decide))) (fun hB => absurd hB hne)
    (fun _ => feedback2_congr (h.on (by decide))) fun _ _ _ => h _ (by omega) (by omega)

/-- The bit register B drops reaches the next state only as the first bit of C. -/
theorem AgreeExcept.upd_of_176 {s s' : CipherState} (h : AgreeExcept 176 s s') :
    AgreeExcept 177 (upd s).1 (upd s').1 := fun _ hk hne =>
  bitAt_upd_congr hk (fun _ => feedback3_congr (h.on (by decide))) (fun _ => feedback1_congr (h.on (by decide)))
    (fun hC => absurd hC hne) fun _ _ _ => h _ (by omega) (by omega)

/-- The bit register C drops reaches the next state only as the first bit of A. -/
theorem AgreeExcept.upd_of_287 {s s' : CipherState} (h : AgreeExcept 287 s s') :
    AgreeExcept 0 (upd s).1 (upd s').1 := fun _ hk hne =>
  bitAt_upd_congr hk (fun hA => absurd hA hne) (fun _ => feedback1_congr (h.on (by decide)))
    (fun _ => feedback2_congr (h.on (by decide))) fun _ _ _ => h _ (by omega) (by omega)

/-! ### The AND terms and the all-ones state (R111) -/

/-- An AND term flips the sum of a feedback bit's other terms exactly when both its inputs are 1. -/
theorem feedback_xor_and (a b c d : Bit) :
    ((a ^^ (b && c)) ^^ d) = ((a ^^ d) ^^ (if b = true ∧ c = true then true else false)) := by
  revert a b c d; decide

theorem bitAt_allOnes {w k : Nat} (h : k < w) : bitAt (BitVec.allOnes w) k = true := by
  rw [bitAt_eq_getLsbD _ h, BitVec.getLsbD_allOnes]
  exact decide_eq_true (by omega)

section AllOnes

variable {s : CipherState} (h : ∀ k < 288, bitAt s k = true)

include h

theorem keystreamBit_of_ones : (upd s).2 = false := by
  simp [upd, keystreamBit, t1, t2, t3, h]

theorem feedback_of_ones : feedback1 s = false ∧ feedback2 s = false ∧ feedback3 s = false := by
  simp [feedback1, feedback2, feedback3, t1, t2, t3, h]

theorem bitAt_upd_of_ones {k : Nat} (hk : k < 288) : bitAt (upd s).1 k = !(k = 0 || k = 93 || k = 177) := by
  obtain ⟨hB, hC, hA⟩ := feedback_of_ones h
  rw [bitAt_upd s hk, hA, hB, hC, h (k - 1) (by omega)]
  split_ifs <;> simp [*]

end AllOnes

end Sys2Proof.Machine

namespace Sys2Proof.Proofs

open Sys2Proof.Machine

/-- Settles O15: the taps of each feedback bit and of z say which bits of a state they can depend on. -/
theorem updateCornerCases : Obligations.UpdateCornerCases := by
  refine ⟨fun _ _ h => AgreeExcept.upd_of_92 h, fun _ _ h => AgreeExcept.upd_of_176 h,
    fun _ _ h => AgreeExcept.upd_of_287 h, fun s => ?shift, fun s => ?and, fun _ _ => keystreamBit_congr,
    keystreamBit_of_ones fun _ => bitAt_allOnes, fun k hk => bitAt_upd_of_ones (fun _ => bitAt_allOnes) (by omega)⟩
  case shift =>
    exact ⟨bitAt_upd_of_shifted s (by decide), bitAt_upd_of_shifted s (by decide), bitAt_upd_of_shifted s (by decide)⟩
  case and =>
    rw [bitAt_upd s (k := 93) (by decide), bitAt_upd s (k := 177) (by decide), bitAt_upd s (k := 0) (by decide)]
    exact ⟨feedback_xor_and .., feedback_xor_and .., feedback_xor_and ..⟩

end Sys2Proof.Proofs
end

section
/-! Key and IV text, digit by digit, in the loaded state. -/

namespace Sys2Proof.Machine

/-- A key or IV that parses is the bits of its 20 digits. -/
theorem parse80_ok {e : HostError} {text : List Char} {p : BitVec 80} (h : parse80 e text = .ok p) :
    ∃ bs, hexToBinary text = some bs ∧ text.length = 20 ∧ p = seqOfBits 80 bs := by
  unfold parse80 at h
  cases hbs : hexToBinary text with
  | none => simp [hbs] at h
  | some bs =>
    by_cases hlen : text.length = 20
    · exact ⟨bs, rfl, hlen, by simpa [hbs, hlen] using h.symm⟩
    · simp [hbs, hlen] at h

/-- Bit k of a key or IV is bit `3 - (k mod 4)` of digit `k / 4` of its text (R194). -/
theorem bitAt_of_parse80 {e : HostError} {text : List Char} {p : BitVec 80} (h : parse80 e text = .ok p) {k : Nat}
    (hk : k < 80) :
    ∃ c v, text[k / 4]? = some c ∧ hexValue c = some v ∧ bitAt p k = v.toNat.testBit (3 - k % 4) := by
  obtain ⟨bs, hbs, hlen, rfl⟩ := parse80_ok h
  have hdigit : k / 4 < text.length := by omega
  have hvalue := (hexToBinary_isSome_iff text).mp (hbs ▸ rfl) _ (List.getElem_mem hdigit)
  obtain ⟨v, hv⟩ := Option.isSome_iff_exists.mp hvalue
  have hc := List.getElem?_eq_getElem hdigit
  have hbit := hexToBinary_getElem? hbs (m := k % 4) (by omega) hc hv
  rw [Nat.div_add_mod] at hbit
  exact ⟨_, v, hc, hv, by rw [bitAt_seqOfBits _ _ _ hk, hbit, Option.getD_some]⟩

end Sys2Proof.Machine

namespace Sys2Proof.Proofs

open Sys2Proof.Machine

/-- Settles O17: the parse puts the digits' bits in the operand, and `Load` puts the operand in the state. -/
theorem keyTextReachesState : Obligations.KeyTextReachesState := by
  intro keyText ivText key iv hkey hiv k hk
  have hlt : k < 80 := by omega
  rw [bitAt_load_key _ _ hlt, bitAt_load_iv _ _ hlt]
  exact ⟨bitAt_of_parse80 hkey hlt, bitAt_of_parse80 hiv hlt⟩

end Sys2Proof.Proofs
end

section
/-! The writers of the cipher state and of the counter, and what every command leaves. -/

namespace Sys2Proof.Proofs

open Sys2Proof.Machine

/-- Settles O39, transition by transition: the defaults and the reports keep s, and each other arm writes its own. -/
theorem onlyTheseWriteCipherState : Obligations.OnlyTheseWriteCipherState := by
  intro i s
  obtain ⟨σ, hexec, htrans⟩ := exec_transition i s
  refine ⟨s.withRegs σ, hexec, fun hne => ?_⟩
  rw [withRegs_regs] at hne ⊢
  cases htrans with
  | rst => exact .inl ⟨rfl, rfl⟩
  | warmupNop hp => exact .inr (.inl ⟨nofun, hp, warmupCycle_s _⟩)
  | warmupBusy hp hnop hrst => exact .inr (.inl ⟨hrst, hp, warmupCycle_s _⟩)
  | nop => exact absurd rfl hne
  | init hp key iv => exact .inr (.inr (.inl ⟨hp, key, iv, rfl, rfl⟩))
  | step hp => exact .inr (.inr (.inr (.inl ⟨hp, rfl, rfl⟩)))
  | stepIdle => exact absurd rfl hne
  | wrstate hp state => exact .inr (.inr (.inr (.inr ⟨hp, state, rfl, rfl⟩)))

/-- Settles O40, transition by transition: the defaults, the reports and STEP's arm keep `cnt` and the phase, and the
defaults and the reports keep s and `ks_bit`. -/
theorem frameOfCommands : Obligations.FrameOfCommands := by
  intro i s
  obtain ⟨σ, hexec, htrans⟩ := exec_transition i s
  refine ⟨s.withRegs σ, hexec, rfl, rfl, ?_⟩
  rw [withRegs_regs]
  cases htrans with
  | rst => simp
  | warmupNop hp | warmupBusy hp => simp [hp]
  | nop => simp
  | init => simp
  | step hp => simp [hp]
  | stepIdle => simp
  | wrstate => simp

end Sys2Proof.Proofs
end

section
/-! The host's drive: a run of the machine's steps, the boot sequence, a saved state, and rejected commands. -/

namespace Sys2Proof.Machine

/-! ### Driving is stepping (R13, R143) -/

theorem driveLines_cons_regs (σ : Regs) (i : Instr) (is : List Instr) :
    (driveLines σ (i :: is)).1 = (driveLines (next σ (encode i)) is).1 := rfl

/-- The registers the host's drive leaves are the cycles' own. -/
theorem driveLines_regs (σ : Regs) (is : List Instr) : (driveLines σ is).1 = nextAll σ (is.map encode) := by
  induction is generalizing σ with
  | nil => rfl
  | cons i is ih => exact ih (next σ (encode i))

theorem driveLines_append_singleton_regs (σ : Regs) (is : List Instr) (i : Instr) :
    (driveLines σ (is ++ [i])).1 = next (driveLines σ is).1 (encode i) := by
  simp [driveLines_regs, nextAll]

/-- The machine with the commands' ports listed runs to the registers the host's drive leaves. -/
theorem runCycles_of_driven {s : State} {is : List Instr} {rest : List Ports}
    (h : s.inputs = is.map encode ++ rest) :
    runCycles is.length s =
      .next { regs := (driveLines s.regs is).1, inputs := rest, cycle := s.cycle + is.length } := by
  induction is generalizing s with
  | nil =>
    obtain ⟨σ, ins, n⟩ := s
    obtain rfl : ins = rest := h
    rfl
  | cons i is ih =>
    have hports : s.ports = encode i := by rw [State.ports, h]; rfl
    have hrest : s.inputs.tail = is.map encode ++ rest := by rw [h]; rfl
    rw [List.length_cons, runCycles_of_step (step_eq_next s), ih hrest, hports, driveLines_cons_regs,
      Nat.add_right_comm, Nat.add_assoc]

/-! ### Commands that give the host no bit -/

theorem driveLines_rst_cons (σ : Regs) (is : List Instr) : driveLines σ (.rst :: is) = driveLines Regs.reset is := by
  rw [driveLines, next_of_rst σ rfl]
  rfl

theorem driveLines_wrstate_cons {σ : Regs} (h : σ.phase ≠ .warmup) (state : BitVec 288) (is : List Instr) :
    driveLines σ (.wrstate state :: is) = driveLines (wrstateArm σ.defaults state) is := by
  have hnext : next σ (encode (.wrstate state)) = wrstateArm σ.defaults state := by
    simp [next, encode, portsOf, h]
  rw [driveLines, hnext]
  rfl

/-! ### The keystream of a session (R142, R254) -/

theorem sessionEnd_s (key : Key) (iv : Iv) (n : Nat) : (sessionEnd key iv n).s = updIter n (initialized key iv) := by
  obtain ⟨hs, -, -⟩ := driveLines_of_ready (σ := sessionRegs key iv) rfl
    fun i hi => .inl (List.eq_of_mem_replicate (n := n) hi)
  rwa [List.count_replicate_self, sessionRegs_s] at hs

/-- Updates of the initialized state are updates of the loaded one beyond the first 1152. -/
theorem updIter_initialized (j : Nat) (key : Key) (iv : Iv) :
    updIter j (initialized key iv) = updIter (1152 + j) (load key iv) := by
  rw [updIter_add, initialized, Config.warmupRounds]

/-- The boot sequence forgets the state it starts from, and goes on as a session on a CORE just reset. -/
theorem driveLines_boot (σ : Regs) (key iv : BitVec 80) (n : Nat) :
    driveLines σ (.rst :: .init key iv :: (List.replicate 1152 .nop ++ List.replicate n .step)) =
      (sessionEnd (keyOperand key) (ivOperand iv) n, keystream n (initialized (keyOperand key) (ivOperand iv))) := by
  have hsession := driveLines_session (σ := Regs.reset) (by decide) (keyOperand key) (ivOperand iv) n
  rw [sessionLines_eq] at hsession
  exact (driveLines_rst_cons σ _).trans hsession

/-! ### STEPs rejected in IDLE (R222, R223) -/

theorem next_step_of_idle {σ : Regs} (h : σ.phase = .idle) :
    next σ (encode .step) = σ.defaults.reject causeNotReady := by
  simp [next, encode, portsOf, h]

/-- A run of rejected STEPs leaves what one of them leaves. -/
theorem driveLines_rejected_steps {σ : Regs} (h : σ.phase = .idle) (n : Nat) :
    (driveLines σ (List.replicate (n + 1) .step)).1 = σ.defaults.reject causeNotReady := by
  induction n generalizing σ with
  | zero => exact next_step_of_idle h
  | succ n ih =>
    rw [List.replicate_succ, driveLines_cons_regs, next_step_of_idle h]
    exact ih h

theorem driveLines_steps_phase_of_idle {σ : Regs} (h : σ.phase = .idle) (n : Nat) :
    (driveLines σ (List.replicate n .step)).1.phase = .idle := by
  cases n with
  | zero => exact h
  | succ n => rw [driveLines_rejected_steps h]; exact h

end Sys2Proof.Machine

namespace Sys2Proof.Proofs

open Sys2Proof.Machine

/-- Settles O27, by induction on the commands: a cycle of the drive is the machine's step. -/
theorem drivingIsStepping : Obligations.DrivingIsStepping :=
  fun _ _ _ => runCycles_of_driven

/-- Settles O26: a session's bits are the keystream of the initialized state, 1152 updates after the loaded one. -/
theorem keystreamAfterInit : Obligations.KeystreamAfterInit := by
  intro σ key iv n hσ
  have hbits : (driveLines σ (expandAll [.initw key iv, .gen n])).2 =
      keystream n (initialized (keyOperand key) (ivOperand iv)) :=
    congrArg Prod.snd (driveLines_session hσ key iv n)
  rw [hbits]
  refine ⟨keystream_length _ _, fun i hpos hi => ?_⟩
  rw [keystream_getElem? _ (by omega), updIter_initialized, Nat.add_sub_assoc hpos]

/-- Settles O28: WRSTATE leaves READY with the saved state, and STEPs from READY give its keystream. -/
theorem savedStateResumesKeystream : Obligations.SavedStateResumesKeystream := by
  intro σ saved n hσ
  rw [driveLines_wrstate_cons hσ]
  exact (driveLines_replicate_step rfl n).2

/-- Settles O49: the bits and registers of `driveLines_boot`, which the machine's run ends in. -/
theorem bootSequenceYieldsKeystream : Obligations.BootSequenceYieldsKeystream := by
  intro s key iv n rest hinputs
  have hlen : (Instr.rst :: .init key iv :: (List.replicate 1152 .nop ++ List.replicate n .step)).length =
      1154 + n := by
    simp only [List.length_cons, List.length_append, List.length_replicate]
    omega
  have hrun := runCycles_of_driven hinputs
  rw [hlen, driveLines_boot] at hrun
  rw [driveLines_boot]
  exact ⟨rfl, _, hrun, rfl, sessionEnd_phase _ _ n, sessionEnd_s _ _ n⟩

/-- Settles O44: every rejected STEP leaves the same report, and NOP clears it. -/
theorem reportPerRejectedCommand : Obligations.ReportPerRejectedCommand := by
  refine fun σ n hidle => ⟨fun k hpos _ => ?rejected, ?cleared⟩
  case rejected =>
    obtain ⟨m, rfl⟩ := Nat.exists_eq_add_of_le' hpos
    rw [driveLines_rejected_steps hidle]
    exact ⟨rfl, rfl, rfl⟩
  case cleared =>
    have hphase := driveLines_steps_phase_of_idle hidle n
    rw [driveLines_append_singleton_regs, next_nop_of_ne (by simp [hphase])]
    exact ⟨rfl, rfl⟩

/-- Settles O54: the bits of a session are the keystream. -/
theorem encryptionIsKeystreamSum : Obligations.EncryptionIsKeystreamSum := by
  intro σ bytes keyText ivText key iv hσ hk hv
  rw [encryptOn_of_parsed bytes hσ hk hv]
  rfl

/-- Settles O55: an even number of digits parses as whole bytes, and the bits of a session are the keystream. -/
theorem decryptionIsKeystreamSum : Obligations.DecryptionIsKeystreamSum := by
  intro σ cipher keyText ivText key iv c hσ hk hv hc heven
  have hlen := hexToBinary_length hc
  have hparse : parseCiphertext cipher = .ok c := by
    rw [parseCiphertext, hc]
    exact if_pos (by omega)
  rw [decryptOn_of_parsed hσ hk hv hparse]
  rfl

end Sys2Proof.Proofs
end

section
/-! A STEP reissued through a warm-up. -/

namespace Sys2Proof.Machine

/-- n more cycles take the registers to READY: none are left in READY itself, and in WARMUP `cnt` counts up to 1152. -/
def ReadyIn : Nat → Regs → Prop
  | 0, σ => σ.phase = .ready
  | n + 1, σ => σ.phase = .warmup ∧ σ.cnt.toNat + (n + 1) = 1152

/-- In the last cycle of the warm-up `cnt` is 1151. -/
theorem ReadyIn.warmupCycle {n : Nat} {σ : Regs} (h : ReadyIn (n + 1) σ) : ReadyIn n (warmupCycle σ) := by
  obtain ⟨hphase, hcnt⟩ := h
  cases n with
  | zero => exact warmupCycle_phase_of_last (by bv_omega)
  | succ n =>
    have hmore : σ.cnt ≠ 1151#11 := by bv_omega
    rw [ReadyIn, warmupCycle_phase, warmupCycle_cnt, if_neg hmore, if_neg hmore]
    exact ⟨hphase, by bv_omega⟩

/-- The report is no part of `ReadyIn`. -/
theorem ReadyIn.reject {n : Nat} {σ : Regs} (h : ReadyIn n σ) (c : BitVec 2) : ReadyIn n (σ.reject c) := by
  cases n <;> exact h

theorem reissueStep_of_ready {σ : Regs} (h : σ.phase = .ready) (tries : Nat) :
    reissueStep (tries + 1) σ = (stepArm σ σ.defaults, some (upd σ.s).2) := by
  rw [reissueStep, next_step_of_ready h]
  rfl

/-- In WARMUP the STEP is rejected and the host tries again a cycle later. -/
theorem reissueStep_of_warmup {σ : Regs} (h : σ.phase = .warmup) (tries : Nat) :
    reissueStep (tries + 1) σ = reissueStep tries ((warmupCycle σ).reject causeBusy) := by
  have hnext : next σ (encode .step) = (warmupCycle σ).reject causeBusy := next_in_warmup rfl h
  rw [reissueStep, hnext]
  rfl

theorem reissueStep_of_readyIn {n : Nat} {σ : Regs} (h : ReadyIn n σ) :
    (reissueStep (n + 1) σ).2 = some (upd (updIter n σ.s)).2 := by
  induction n generalizing σ with
  | zero => rw [reissueStep_of_ready h]; rfl
  | succ n ih =>
    rw [reissueStep_of_warmup h.1, ih (h.warmupCycle.reject causeBusy), reject_s, warmupCycle_s, updIter_succ]

theorem reissueStep_none_of_readyIn {n tries : Nat} {σ : Regs} (h : ReadyIn n σ) (htries : tries ≤ n) :
    (reissueStep tries σ).2 = none := by
  induction tries generalizing n σ with
  | zero => rfl
  | succ tries ih =>
    obtain ⟨m, rfl⟩ := Nat.exists_eq_add_of_le' (Nat.zero_lt_of_lt htries)
    rw [reissueStep_of_warmup h.1]
    exact ih (h.warmupCycle.reject causeBusy) (Nat.le_of_succ_le_succ htries)

end Sys2Proof.Machine

namespace Sys2Proof.Proofs

open Sys2Proof.Machine

/-- Settles O59, by induction on the cycles to READY: each of them rejects the STEP and makes one
update (log entry 9). -/
theorem reissuedStepGetsItsBit : Obligations.ReissuedStepGetsItsBit := by
  intro σ hphase hcnt
  have hready : ReadyIn (1152 - σ.cnt.toNat) σ := by
    rw [show 1152 - σ.cnt.toNat = 1151 - σ.cnt.toNat + 1 by omega]
    exact ⟨hphase, by omega⟩
  exact ⟨reissueStep_of_readyIn hready, fun _ htries => reissueStep_none_of_readyIn hready htries⟩

end Sys2Proof.Proofs
end

section
/-! The opcode table's words, the step's command, and the invariants at reset. -/

namespace Sys2Proof

/-- A number with a bit above the three of the command word is no command word (log entry 5). -/
theorem decodeTableWord_of_le {w : Nat} (nbits : Nat) (h : 8 ≤ w) : decodeTableWord nbits w = none := by
  have hword : isCommandWord w = false := decide_eq_false (Nat.not_lt.mpr h)
  simp [decodeTableWord, commandWord, hword]

theorem decodeTableWord_of_lt {w nbits : Nat} {i : Instr} (h : w < 8) (hi : decode (portsOfWord w) = i) :
    decodeTableWord nbits w = some i := by
  have hword : isCommandWord w = true := decide_eq_true h
  rw [← hi, decodeTableWord, commandWord, if_pos hword, portsOfWord]

end Sys2Proof

namespace Sys2Proof.Proofs

open Sys2Proof.Machine

/-- Settles O2, word by word: bit 2 selects RST, and the low two bits one of the other commands. -/
theorem tableWordsDecode : Obligations.TableWordsDecode :=
  ⟨decodeTableWord_of_lt (by decide) (decode_of_nop rfl rfl),
    decodeTableWord_of_lt (by decide) (decode_of_init rfl rfl),
    decodeTableWord_of_lt (by decide) (decode_of_step rfl rfl),
    decodeTableWord_of_lt (by decide) (decode_of_wrstate rfl rfl),
    decodeTableWord_of_lt (by decide) (decode_of_rst rfl),
    decodeTableWord_of_lt (by decide) (decode_of_rst rfl),
    decodeTableWord_of_lt (by decide) (decode_of_rst rfl),
    decodeTableWord_of_lt (by decide) (decode_of_rst rfl),
    fun nbits _ hw => decodeTableWord_of_le nbits hw⟩

/-- Settles O33: the ports of the cycle are the first listed, or the free values. -/
theorem stepRunsDecodedCommand : Obligations.StepRunsDecodedCommand :=
  ⟨fun _ _ _ _ _ hdecode => (step_of_listed rfl).trans (congrArg (exec · _) hdecode), fun _ _ => step_eq _⟩

/-- Settles O37: the reset registers meet the invariants. -/
theorem invariantsHoldAtReset : Obligations.InvariantsHoldAtReset := inv_reset

end Sys2Proof.Proofs
end
